-- ==== Sys2Proof/Word.lean ====
section
/-! DEFINITION. The fixed-width words of the IR decoder core (spec/00_scope.md section 5, spec/10_state.md rule R21,
spec/30_encoding.md rule R45). Every other width is a parameter (`Config`). A 1-bit value of the spec is a `Bool`
(1 = true). -/
namespace Sys2Proof

/-- The nine-bit dispatch word of rule R45. -/
abbrev DispatchWord := BitVec 9

/-- The sixteen wires of the output port `code[15:0]` (rule R21). -/
abbrev PortWord := BitVec 16

end Sys2Proof
end

