-- ==== Sys2Proof/Config.lean ====
section
/-! DEFINITION. What is fixed when the block is built (spec/00_scope.md rules R5 and R6, spec/92_eei_decisions.md
section 5) and the free values: the levels of the two input wires at a step for which no stimulus is listed
(spec/00_scope.md rule R7, spec/93_implementation_defined.md U9). -/
namespace Sys2Proof

/-- The named parameters of rule R5. Rules name the parameters, never the numbers. The three nominal periods are
read by no rule; only the stimulus macros of rule R55 use them. -/
structure Config where
  /-- `F_TICK`, in hertz: the frequency of `clk`; a step does not read it -/
  fTick : Nat
  /-- `T_SHORT`, in ticks -/
  tShort : Nat
  /-- `T_LONG`, in ticks -/
  tLong : Nat
  /-- `T_START`, in ticks -/
  tStart : Nat
  /-- `THR_SHORT`, in ticks -/
  thrShort : Nat
  /-- `THR_LONG`, in ticks -/
  thrLong : Nat
  /-- `WDT_TICKS` -/
  wdtTicks : Nat
  /-- `NBITS`, the bits of a frame -/
  nbits : Nat
  /-- `W_TMR`, the width of `tmr` -/
  wTmr : Nat
  /-- `W_ACC`, the width of `acc` and of `code` -/
  wAcc : Nat
  /-- `W_CNT`, the width of `cnt` -/
  wCnt : Nat
deriving DecidableEq, Repr

namespace Config

/-- The number of whole ticks in `us` microseconds at tick rate `hz` (rule R5: 2 ticks per µs at 2 MHz; rule R127 (1):
for another clock the tick parameters are computed again from the µs values). -/
def ticksOf (hz us : Nat) : Nat :=
  us * hz / 1000000

/-- The parameters of rule R5 for a clock of `hz` hertz, from the µs values of the reference column (rule R127 (1)).
DESIGN CHOICE: a part of a tick is dropped (log entry 11), and the widths stay those of the reference column, `W_TMR`
among them (log entry 15): a rate whose window does not fit sixteen bits breaks rule R6 unless `wTmr` is widened. -/
def atTickRate (hz : Nat) : Config where
  fTick := hz
  tShort := ticksOf hz 600
  tLong := ticksOf hz 1200
  tStart := ticksOf hz 2400
  thrShort := ticksOf hz 900
  thrLong := ticksOf hz 1800
  wdtTicks := ticksOf hz 26000
  nbits := 15
  wTmr := 16
  wAcc := 16
  wCnt := 4

/-- The reference column of rule R5, as its table writes it. -/
def reference : Config where
  fTick := 2000000
  tShort := 1200
  tLong := 2400
  tStart := 4800
  thrShort := 1800
  thrLong := 3600
  wdtTicks := 52000
  nbits := 15
  wTmr := 16
  wAcc := 16
  wCnt := 4

/-- The level of `rst` at step number `n` of a run, where no stimulus lists it: a free value (log entry 3). -/
opaque freeRst : Nat → Bool

/-- The level of `pin` at step number `n` of a run, where no stimulus lists it: a free value (log entry 3). -/
opaque freePin : Nat → Bool

end Config
end Sys2Proof
end

