-- ==== Sys2Proof/Syntax.lean ====
section
/-! DEFINITION. The whole syntax: the decoder states (spec/10_state.md rule R11), the fields of the dispatch word
(spec/30_encoding.md rule R45), the fourteen operations (one constructor per row of spec/opcode_table.json, holding
the bits of the word that the row leaves open), the error kinds (spec/60_exceptions.md rule R105) and the notation
for stimuli (spec/30_encoding.md rules R53 and R54). -/
namespace Sys2Proof

/-- DecoderState (rule R11): which edge is awaited. -/
inductive DecoderState where
  /-- AWAIT_START_MARK -/
  | sm
  /-- AWAIT_START_SPACE -/
  | ss
  /-- AWAIT_BIT_MARK -/
  | bm
  /-- AWAIT_BIT_SPACE -/
  | bs
deriving DecidableEq, Repr

/-- The fields of the dispatch word, most significant first (rule R45). -/
structure Fields where
  rst : Bool
  edge : Bool
  cm : Bool
  lvl : Bool
  st : DecoderState
  gtL : Bool
  geL : Bool
  gtS : Bool
deriving DecidableEq, Repr

/-- The operations of rule R49. The arguments are the fields of the dispatch word that take no part in selecting the
row (the letters of its pattern), in the order of rule R45; no operation reads them. -/
inductive Instr where
  /-- RESET, `1emvssabc`, rule R125 -/
  | reset (edge cm lvl : Bool) (st : DecoderState) (gtL geL gtS : Bool)
  /-- IDLE, `000vssabc`, rule R66 -/
  | idle (lvl : Bool) (st : DecoderState) (gtL geL gtS : Bool)
  /-- WDT_FIRE, `001vssabc`, rule R95 -/
  | wdtFire (lvl : Bool) (st : DecoderState) (gtL geL gtS : Bool)
  /-- SM_MARK_BEGIN, `01m100abc`, rule R77 -/
  | smMarkBegin (cm gtL geL gtS : Bool)
  /-- SM_IGNORE, `01m000abc`, rule R78 -/
  | smIgnore (cm gtL geL gtS : Bool)
  /-- SS_ACCEPT, `01m0011bc`, rule R79 -/
  | ssAccept (cm geL gtS : Bool)
  /-- SS_RESYNC, `01m0010bc`, rule R80 -/
  | ssResync (cm geL gtS : Bool)
  /-- SS_VIOL, `01m101abc`, rule R81 -/
  | ssViol (cm gtL geL gtS : Bool)
  /-- BM_MARK_BEGIN, `01m110abc`, rule R82 -/
  | bmMarkBegin (cm gtL geL gtS : Bool)
  /-- BM_VIOL, `01m010abc`, rule R83 -/
  | bmViol (cm gtL geL gtS : Bool)
  /-- BS_BIT0, `01m011a00`, rule R84 -/
  | bsBit0 (cm gtL : Bool)
  /-- BS_BIT1, `01m011a01`, rule R85 -/
  | bsBit1 (cm gtL : Bool)
  /-- BS_LONG, `01m011a1c`, rule R87 -/
  | bsLong (cm gtL gtS : Bool)
  /-- BS_VIOL, `01m111abc`, rule R88 -/
  | bsViol (cm gtL geL gtS : Bool)
deriving DecidableEq, Repr

/-- The kinds of `fsmError` (rule R105). They have no numeric encoding (rule R110). -/
inductive ErrorKind where
  | resync
  | violation
  | longMark
deriving DecidableEq, Repr

/-- An item of a pin-level stimulus (rule R53). -/
inductive Item where
  /-- `RST`: one step with `rst = 1`, `pin = 1` -/
  | rst
  /-- `RSTL`: one step with `rst = 1`, `pin = 0` -/
  | rstl
  /-- `H n`: `n` steps with `rst = 0`, `pin = 1` -/
  | high (n : Nat)
  /-- `L n`: `n` steps with `rst = 0`, `pin = 0` -/
  | low (n : Nat)
deriving DecidableEq, Repr

/-- An item of an event-level stimulus (rule R54). -/
inductive Event where
  /-- `E+ d`: an asserted edge with duration operand `d` -/
  | asserted (d : Nat)
  /-- `E- d`: a deasserted edge with duration operand `d` -/
  | deasserted (d : Nat)
  /-- `W`: WDT_FIRE -/
  | watchdog
deriving DecidableEq, Repr

end Sys2Proof
end

