-- ==== Sys2Proof/WellFormed.lean ====
section
/-! DEFINITION. What is well formed: a configuration (spec/00_scope.md rule R6), the fields of a dispatch word that the
block can form (spec/30_encoding.md rules R48 and R50), and a stimulus (rule R53). No dispatch word is illegal (rule
R50), so `Instr.formable` restricts what a step forms, never what is decoded or run. -/
namespace Sys2Proof

/-- Rule R6: the constraints the parameters must satisfy. -/
def Config.wf (c : Config) : Bool :=
  decide (0 < c.thrShort) && decide (c.thrShort < c.thrLong) && decide (c.thrLong < c.wdtTicks)
    && decide (c.wdtTicks < 2 ^ c.wTmr) && decide (1 ≤ c.nbits) && decide (c.nbits ≤ 2 ^ c.wCnt - 1)
    && decide (c.nbits ≤ c.wAcc)

/-- A running timer can show every class of duration of rule R48 without a compare match: there is a tick strictly
between the two thresholds and one between `THR_LONG` and the window. The reference values satisfy it; no rule needs
it, only `withFetchWord` does. -/
def Config.classesInhabited (c : Config) : Bool :=
  decide (c.thrShort + 1 < c.thrLong) && decide (c.thrLong + 1 < c.wdtTicks)

/-- Rules R48 and R50: `gtL` implies `geL` implies `gtS`; and at a compare match the duration is `WDT_TICKS`, which
exceeds `THR_LONG` (rules R47 and R6), so `cm` implies `gtL`. -/
def Fields.formable (f : Fields) : Bool :=
  (!f.gtL || f.geL) && (!f.geL || f.gtS) && (!f.cm || f.gtL)

/-- An item stands for at least one step (rule R53). -/
def Item.wf : Item → Bool
  | .rst => true
  | .rstl => true
  | .high n => decide (1 ≤ n)
  | .low n => decide (1 ≤ n)

/-- Rule R53: a stimulus begins with `RST` or `RSTL`, and each of its items is well formed. This is also how
spec/93_implementation_defined.md U1 refuses a run that does not begin with a RESET step. -/
def stimulusWf : List Item → Bool
  | .rst :: rest => rest.all Item.wf
  | .rstl :: rest => rest.all Item.wf
  | _ => false

end Sys2Proof
end

