-- ==== Sys2Proof/Decode.lean ====
section
/-! DEFINITION. Decoding and encoding the dispatch word (spec/30_encoding.md rules R45, R49, R50). `decode` follows the
match and mask columns of rule R49; `encode` packs the fields of rule R45; `opcodeTable` is the table as data. -/
namespace Sys2Proof

/-- The encoding of DecoderState (spec/10_state.md rule R11, decision D4). -/
def DecoderState.bits : DecoderState → BitVec 2
  | .sm => 0b00#2
  | .ss => 0b01#2
  | .bm => 0b10#2
  | .bs => 0b11#2

/-- The state field of a word. All four codes are legal (rule R52). -/
def DecoderState.ofBits (b : BitVec 2) : DecoderState :=
  match b[1], b[0] with
  | false, false => .sm
  | false, true => .ss
  | true, false => .bm
  | true, true => .bs

/-- `DW = {rst, edge, cm, lvl, st[1:0], gtL, geL, gtS}` (rule R45). -/
def Fields.pack (f : Fields) : DispatchWord :=
  BitVec.ofBool f.rst ++ BitVec.ofBool f.edge ++ BitVec.ofBool f.cm ++ BitVec.ofBool f.lvl ++ f.st.bits
    ++ BitVec.ofBool f.gtL ++ BitVec.ofBool f.geL ++ BitVec.ofBool f.gtS

/-- The state field of a word, bits 4 to 3 (rule R45). -/
def stField (w : DispatchWord) : DecoderState :=
  DecoderState.ofBits (w.extractLsb' 3 2)

/-- The operation a word selects (rule R49). The patterns are pairwise disjoint and cover all 512 words (rule R50), so
the order of the rows does not matter and the last row needs no test. -/
def decode (w : DispatchWord) : Instr :=
  if w &&& 0x100#9 = 0x100#9 then .reset w[7] w[6] w[5] (stField w) w[2] w[1] w[0]
  else if w &&& 0x1C0#9 = 0x000#9 then .idle w[5] (stField w) w[2] w[1] w[0]
  else if w &&& 0x1C0#9 = 0x040#9 then .wdtFire w[5] (stField w) w[2] w[1] w[0]
  else if w &&& 0x1B8#9 = 0x0A0#9 then .smMarkBegin w[6] w[2] w[1] w[0]
  else if w &&& 0x1B8#9 = 0x080#9 then .smIgnore w[6] w[2] w[1] w[0]
  else if w &&& 0x1BC#9 = 0x08C#9 then .ssAccept w[6] w[1] w[0]
  else if w &&& 0x1BC#9 = 0x088#9 then .ssResync w[6] w[1] w[0]
  else if w &&& 0x1B8#9 = 0x0A8#9 then .ssViol w[6] w[2] w[1] w[0]
  else if w &&& 0x1B8#9 = 0x0B0#9 then .bmMarkBegin w[6] w[2] w[1] w[0]
  else if w &&& 0x1B8#9 = 0x090#9 then .bmViol w[6] w[2] w[1] w[0]
  else if w &&& 0x1BB#9 = 0x098#9 then .bsBit0 w[6] w[2]
  else if w &&& 0x1BB#9 = 0x099#9 then .bsBit1 w[6] w[2]
  else if w &&& 0x1BA#9 = 0x09A#9 then .bsLong w[6] w[2] w[0]
  else .bsViol w[6] w[2] w[1] w[0]

/-- The fields of an operation's word: the bits its pattern fixes and the bits it leaves open (rule R49). -/
def Instr.fields : Instr → Fields
  | .reset e m v s a b c => ⟨true, e, m, v, s, a, b, c⟩
  | .idle v s a b c => ⟨false, false, false, v, s, a, b, c⟩
  | .wdtFire v s a b c => ⟨false, false, true, v, s, a, b, c⟩
  | .smMarkBegin m a b c => ⟨false, true, m, true, .sm, a, b, c⟩
  | .smIgnore m a b c => ⟨false, true, m, false, .sm, a, b, c⟩
  | .ssAccept m b c => ⟨false, true, m, false, .ss, true, b, c⟩
  | .ssResync m b c => ⟨false, true, m, false, .ss, false, b, c⟩
  | .ssViol m a b c => ⟨false, true, m, true, .ss, a, b, c⟩
  | .bmMarkBegin m a b c => ⟨false, true, m, true, .bm, a, b, c⟩
  | .bmViol m a b c => ⟨false, true, m, false, .bm, a, b, c⟩
  | .bsBit0 m a => ⟨false, true, m, false, .bs, a, false, false⟩
  | .bsBit1 m a => ⟨false, true, m, false, .bs, a, false, true⟩
  | .bsLong m a c => ⟨false, true, m, false, .bs, a, true, c⟩
  | .bsViol m a b c => ⟨false, true, m, true, .bs, a, b, c⟩

/-- The word of an operation. -/
def encode (i : Instr) : DispatchWord :=
  i.fields.pack

/-- The mnemonic of rule R49. -/
def Instr.mnemonic : Instr → String
  | .reset .. => "RESET"
  | .idle .. => "IDLE"
  | .wdtFire .. => "WDT_FIRE"
  | .smMarkBegin .. => "SM_MARK_BEGIN"
  | .smIgnore .. => "SM_IGNORE"
  | .ssAccept .. => "SS_ACCEPT"
  | .ssResync .. => "SS_RESYNC"
  | .ssViol .. => "SS_VIOL"
  | .bmMarkBegin .. => "BM_MARK_BEGIN"
  | .bmViol .. => "BM_VIOL"
  | .bsBit0 .. => "BS_BIT0"
  | .bsBit1 .. => "BS_BIT1"
  | .bsLong .. => "BS_LONG"
  | .bsViol .. => "BS_VIOL"

/-- A row of rule R49: it selects the words `w` with `w & mask = pattern`. -/
structure Row where
  mnemonic : String
  pattern : DispatchWord
  mask : DispatchWord
deriving DecidableEq, Repr

def Row.selects (r : Row) (w : DispatchWord) : Bool :=
  w &&& r.mask == r.pattern

/-- The opcode map of rule R49 as data, in its order. -/
def opcodeTable : List Row :=
  [⟨"RESET", 0x100#9, 0x100#9⟩, ⟨"IDLE", 0x000#9, 0x1C0#9⟩, ⟨"WDT_FIRE", 0x040#9, 0x1C0#9⟩,
    ⟨"SM_MARK_BEGIN", 0x0A0#9, 0x1B8#9⟩, ⟨"SM_IGNORE", 0x080#9, 0x1B8#9⟩]
  ++ [⟨"SS_ACCEPT", 0x08C#9, 0x1BC#9⟩, ⟨"SS_RESYNC", 0x088#9, 0x1BC#9⟩, ⟨"SS_VIOL", 0x0A8#9, 0x1B8#9⟩,
    ⟨"BM_MARK_BEGIN", 0x0B0#9, 0x1B8#9⟩, ⟨"BM_VIOL", 0x090#9, 0x1B8#9⟩]
  ++ [⟨"BS_BIT0", 0x098#9, 0x1BB#9⟩, ⟨"BS_BIT1", 0x099#9, 0x1BB#9⟩, ⟨"BS_LONG", 0x09A#9, 0x1BA#9⟩,
    ⟨"BS_VIOL", 0x0B8#9, 0x1B8#9⟩]

/-- The row an operation belongs to. -/
def Instr.row : Instr → Row
  | .reset .. => ⟨"RESET", 0x100#9, 0x100#9⟩
  | .idle .. => ⟨"IDLE", 0x000#9, 0x1C0#9⟩
  | .wdtFire .. => ⟨"WDT_FIRE", 0x040#9, 0x1C0#9⟩
  | .smMarkBegin .. => ⟨"SM_MARK_BEGIN", 0x0A0#9, 0x1B8#9⟩
  | .smIgnore .. => ⟨"SM_IGNORE", 0x080#9, 0x1B8#9⟩
  | .ssAccept .. => ⟨"SS_ACCEPT", 0x08C#9, 0x1BC#9⟩
  | .ssResync .. => ⟨"SS_RESYNC", 0x088#9, 0x1BC#9⟩
  | .ssViol .. => ⟨"SS_VIOL", 0x0A8#9, 0x1B8#9⟩
  | .bmMarkBegin .. => ⟨"BM_MARK_BEGIN", 0x0B0#9, 0x1B8#9⟩
  | .bmViol .. => ⟨"BM_VIOL", 0x090#9, 0x1B8#9⟩
  | .bsBit0 .. => ⟨"BS_BIT0", 0x098#9, 0x1BB#9⟩
  | .bsBit1 .. => ⟨"BS_BIT1", 0x099#9, 0x1BB#9⟩
  | .bsLong .. => ⟨"BS_LONG", 0x09A#9, 0x1BA#9⟩
  | .bsViol .. => ⟨"BS_VIOL", 0x0B8#9, 0x1B8#9⟩

/-- Why a number is no dispatch word. -/
inductive DecodeError where
  /-- the number does not fit the nine bits of format `DW` (rule R45) -/
  | widerThanNineBits
deriving DecidableEq, Repr

/-- Reading any number as a dispatch word. -/
def decodeNat (w : Nat) : Except DecodeError Instr :=
  if w < 512 then .ok (decode (BitVec.ofNat 9 w)) else .error .widerThanNineBits

/-- The instruction read from `nbits` bits of `w`, bit 0 least significant as in spec/opcode_table.json; a dispatch word
is nine wires and is not stored in memory, so there is no byte order to undo (spec/20_memory.md rule R33). -/
def decodeTableWord (nbits w : Nat) : Option Instr :=
  (decodeNat (w % 2 ^ nbits)).toOption

end Sys2Proof
end

