-- ==== Sys2Proof/Machine/State.lean ====
section
/-! DEFINITION. The state: the nine registers of spec/10_state.md rule R10 (`Regs`), and beside them what the step
function of rule R60 takes as arguments and the host's interface passes in the state: the parameters and the inputs
(log entries 1, 2 and 3). Also the reasons to stop, and the state after reset (rule R23). -/
namespace Sys2Proof.Machine

/-- The two inputs the environment supplies at one step (spec/10_state.md rule R22): `rst` active high, `pin` with
0 = asserted. -/
structure Input where
  rst : Bool
  pin : Bool
deriving DecidableEq, Repr

/-- The record `S` of rule R10: nine registers and nothing else, at the widths of the configuration. -/
structure Regs (c : Config) where
  /-- DecoderState, rule R11 -/
  st : DecoderState
  /-- BitAccumulator, rule R12 -/
  acc : BitVec c.wAcc
  /-- BitCount, rule R13 -/
  cnt : BitVec c.wCnt
  /-- CodeRegister, rule R14 -/
  code : BitVec c.wAcc
  /-- receiving indicator flag, rule R15 -/
  rx : Bool
  /-- fault indicator flag, rule R16 -/
  fault : Bool
  /-- edge timer count, rule R17 -/
  tmr : BitVec c.wTmr
  /-- timer started, rule R18 -/
  run : Bool
  /-- the level of `pin` sampled at the previous step, rule R19 -/
  pinQ : Bool
deriving DecidableEq, Repr

/-- A step's whole argument. `regs` is the state of the block. The other three fields are the model's own: rule R20
makes the configuration and the inputs parameters of the step function, and the host's step has one argument. -/
structure State where
  /-- the configuration; no step changes it (log entry 1) -/
  cfg : Config
  /-- the registers -/
  regs : Regs cfg
  /-- the inputs of the coming steps, the next step's first (log entry 2) -/
  stim : List Input
  /-- how many steps have been taken; it only numbers the free inputs (log entry 3) -/
  clock : Nat
deriving DecidableEq, Repr

/-- Why a step stops with a fault: never. "Nothing in this block is treated as `fault` or `stuck`"
(spec/93_implementation_defined.md section 1), so the type has no constructor. -/
inductive Fault where
deriving DecidableEq, Repr

/-- Why a step is refused. -/
inductive Refusal where
  /-- an operation that has no meaning in this model; raised by no arm of `exec`; safe -/
  | notModelled (mnemonic : String)
  /-- the configuration breaks rule R6 ("A model refuses a configuration that breaks them"); raised by `step` before
  it selects an operation; safe -/
  | badConfig
deriving DecidableEq, Repr

/-- Rule R23, at the reference configuration: the state right after a RESET step at which `pin` was 1 (the item `RST` of
rule R53; that level is log entry 4). No stimulus is listed, so the inputs that follow are free. -/
def State.reset : State where
  cfg := Config.reference
  regs :=
    { st := .sm, acc := 0, cnt := 0, code := 0, rx := false, fault := false, tmr := 0, run := true, pinQ := true }
  stim := []
  clock := 0

end Sys2Proof.Machine
end

