-- ==== Sys2Proof/Machine/Flags.lean ====
section
/-! DEFINITION. The one-bit values computed within a step: the edge detector (spec/40_frontend_timer.md rule R61), the
compare match (rule R63) and the classifier (rule R67; spec/30_encoding.md rule R48). -/
namespace Sys2Proof.Machine

/-- `edge = (pin != S.pin_q)` (rules R46 and R61). -/
def edgeDetect (pinQ pin : Bool) : Bool :=
  pin != pinQ

/-- `lvl = !pin`, 1 = asserted (rules R46 and R61). -/
def lvlOf (pin : Bool) : Bool :=
  !pin

variable {c : Config}

/-- `cm = S.run & (d == WDT_TICKS)` (rules R47 and R63). -/
def compareMatch (c : Config) (run : Bool) (d : BitVec c.wTmr) : Bool :=
  run && decide (d.toNat = c.wdtTicks)

/-- `gtL = (d > THR_LONG)` (rules R48 and R67). -/
def gtLong (d : BitVec c.wTmr) : Bool :=
  decide (d.toNat > c.thrLong)

/-- `geL = (d >= THR_LONG)` (rules R48 and R67). -/
def geLong (d : BitVec c.wTmr) : Bool :=
  decide (d.toNat ≥ c.thrLong)

/-- `gtS = (d > THR_SHORT)` (rules R48 and R67). -/
def gtShort (d : BitVec c.wTmr) : Bool :=
  decide (d.toNat > c.thrShort)

end Sys2Proof.Machine
end

