-- ==== Sys2Proof/Machine/Operands.lean ====
section
/-! DEFINITION. The operands of a step: the two inputs (spec/10_state.md rule R22), the duration operand
(spec/40_frontend_timer.md rule R64) and the dispatch word assembled from them (spec/30_encoding.md rules R45 to R48). -/
namespace Sys2Proof.Machine

/-- The inputs of the coming step: the first listed, or free values where none is listed
(spec/93_implementation_defined.md U9; log entry 3). -/
def State.input (s : State) : Input :=
  match s.stim with
  | [] => ⟨Config.freeRst s.clock, Config.freePin s.clock⟩
  | i :: _ => i

/-- `d = S.tmr + 1` modulo `2^W_TMR` when the timer runs, `S.tmr` when it does not (rules R48, R62, R64, R65). -/
def Regs.duration {c : Config} (r : Regs c) : BitVec c.wTmr :=
  if r.run then r.tmr + 1 else r.tmr

/-- The fields of the dispatch word of a step taken from registers `r` with inputs `i` (rules R45 to R48). -/
def Regs.dispatchFields {c : Config} (r : Regs c) (i : Input) : Fields where
  rst := i.rst
  edge := edgeDetect r.pinQ i.pin
  cm := compareMatch c r.run r.duration
  lvl := lvlOf i.pin
  st := r.st
  gtL := gtLong r.duration
  geL := geLong r.duration
  gtS := gtShort r.duration

/-- The dispatch word of the coming step (rule R45). -/
def State.dispatchWord (s : State) : DispatchWord :=
  (s.regs.dispatchFields s.input).pack

/-- The operation the coming step performs (rule R49). -/
def State.fetch (s : State) : Instr :=
  decode s.dispatchWord

end Sys2Proof.Machine
end

