-- ==== Sys2Proof/Machine/Ops.lean ====
section
/-! DEFINITION. The shared operations: the tick and sampling phase (spec/40_frontend_timer.md rule R60), the timer's
reset, start and stop (rule R62), the common tail of the edge operations (spec/41_fsm_edge_ops.md rule R76), `SHIFT_IN`
(rule R86), `fsmError` (spec/60_exceptions.md rule R106, the block's only exception; there is no return from it, rule
R116), the reset values (spec/70_reset_and_hazards.md rule R125), and the end of a step. The block has no memory
(spec/20_memory.md rule R30), so there is no memory operation. -/
namespace Sys2Proof.Machine

variable {c : Config}

/-- `S with { tmr <- d, pin_q <- pin }`: phase 1 of rule R60. -/
def Regs.sample (r : Regs c) (pin : Bool) : Regs c :=
  { r with tmr := r.duration, pinQ := pin }

/-- `tmr <- 0` (rule R62). -/
def Regs.resetTimer (r : Regs c) : Regs c :=
  { r with tmr := 0 }

/-- `run <- 1` (rule R62). -/
def Regs.startTimer (r : Regs c) : Regs c :=
  { r with run := true }

/-- `run <- 0`; the count holds (rule R62, decision D27). -/
def Regs.stopTimer (r : Regs c) : Regs c :=
  { r with run := false }

/-- The common tail of every edge operation: `tmr <- 0` (rule R76), with the successor state (rule R91). -/
def Regs.edgeTail (r : Regs c) (next : DecoderState) : Regs c :=
  { r.resetTimer with st := next }

/-- Whether a kind of error sets `fault` (rules R106 to R109). -/
def setsFault : ErrorKind → Bool
  | .resync => false
  | .violation => true
  | .longMark => true

/-- `fsmError(kind)` (rule R106): `st <- SM`, `tmr <- 0`, and `fault <- 1` for VIOLATION and LONG_MARK only. -/
def Regs.fsmError (kind : ErrorKind) (r : Regs c) : Regs c :=
  { r.edgeTail .sm with fault := r.fault || setsFault kind }

/-- `acc' = trunc((S.acc << 1) | b)` (rules R86 and R89). -/
def shiftedAcc (acc : BitVec c.wAcc) (b : Bool) : BitVec c.wAcc :=
  (acc <<< 1) ||| BitVec.setWidth c.wAcc (BitVec.ofBool b)

/-- `cnt' = trunc(S.cnt + 1)` (rules R86 and R89). -/
def countedBit (cnt : BitVec c.wCnt) : BitVec c.wCnt :=
  cnt + 1

/-- `SHIFT_IN(S, b)` (rule R86): the comparison with `NBITS` uses the incremented count, and the published value
includes the new bit. -/
def Regs.shiftIn (b : Bool) (r : Regs c) : Regs c :=
  let acc' := shiftedAcc r.acc b
  let cnt' := countedBit r.cnt
  if cnt'.toNat = c.nbits then
    { r.edgeTail .sm with acc := acc', cnt := cnt', code := acc' }
  else
    { r.edgeTail .bm with acc := acc', cnt := cnt' }

/-- The registers after `RESET(pin)` (rules R23 and R125). -/
def resetRegs (c : Config) (pin : Bool) : Regs c :=
  { st := .sm, acc := 0, cnt := 0, code := 0, rx := false, fault := false, tmr := 0, run := true, pinQ := pin }

/-- The end of a step: the registers take their new values together, and the step's inputs are used up. -/
def State.commit (s : State) (r : Regs s.cfg) : State :=
  { s with regs := r, stim := s.stim.tail, clock := s.clock + 1 }

/-- The registers the operation of a step receives (rule R60: `S1`). -/
def State.sampled (s : State) : Regs s.cfg :=
  s.regs.sample s.input.pin

end Sys2Proof.Machine
end

