-- ==== Sys2Proof/Machine/BitOps.lean ====
section
/-! DEFINITION. The edge operations of the states AWAIT_BIT_MARK and AWAIT_BIT_SPACE (spec/41_fsm_edge_ops.md sections 4
and 5): each as an update of the registers it receives, and as the step that performs it. -/
namespace Sys2Proof.Machine

variable {c : Config}

/-- BM_MARK_BEGIN(S), rule R82: `tmr <- 0; st <- BS`. -/
def Regs.bmMarkBegin (r : Regs c) : Regs c :=
  r.edgeTail .bs

/-- BM_VIOL(S), rule R83: `fsmError(VIOLATION)`. -/
def Regs.bmViol (r : Regs c) : Regs c :=
  r.fsmError .violation

/-- BS_BIT0(S, d), rule R84: `SHIFT_IN(S, 0)`. -/
def Regs.bsBit0 (r : Regs c) : Regs c :=
  r.shiftIn false

/-- BS_BIT1(S, d), rule R85: `SHIFT_IN(S, 1)`. -/
def Regs.bsBit1 (r : Regs c) : Regs c :=
  r.shiftIn true

/-- BS_LONG(S, d), rule R87: `fsmError(LONG_MARK)`. -/
def Regs.bsLong (r : Regs c) : Regs c :=
  r.fsmError .longMark

/-- BS_VIOL(S), rule R88: `fsmError(VIOLATION)`. -/
def Regs.bsViol (r : Regs c) : Regs c :=
  r.fsmError .violation

/-- A step that performs BM_MARK_BEGIN, rules R60 and R82. -/
def execBmMarkBegin (s : State) : Host.Outcome State Fault Refusal :=
  .next (s.commit s.sampled.bmMarkBegin)

/-- A step that performs BM_VIOL, rules R60 and R83. -/
def execBmViol (s : State) : Host.Outcome State Fault Refusal :=
  .next (s.commit s.sampled.bmViol)

/-- A step that performs BS_BIT0, rules R60 and R84. -/
def execBsBit0 (s : State) : Host.Outcome State Fault Refusal :=
  .next (s.commit s.sampled.bsBit0)

/-- A step that performs BS_BIT1, rules R60 and R85. -/
def execBsBit1 (s : State) : Host.Outcome State Fault Refusal :=
  .next (s.commit s.sampled.bsBit1)

/-- A step that performs BS_LONG, rules R60 and R87. -/
def execBsLong (s : State) : Host.Outcome State Fault Refusal :=
  .next (s.commit s.sampled.bsLong)

/-- A step that performs BS_VIOL, rules R60 and R88. -/
def execBsViol (s : State) : Host.Outcome State Fault Refusal :=
  .next (s.commit s.sampled.bsViol)

end Sys2Proof.Machine
end

