-- ==== Sys2Proof/Machine/FrontEnd.lean ====
section
/-! DEFINITION. IDLE (spec/40_frontend_timer.md rule R66). -/
namespace Sys2Proof.Machine

/-- IDLE(S, pin), rule R66: `tmr <- d; pin_q <- pin`. -/
def execIdle (s : State) : Host.Outcome State Fault Refusal :=
  .next (s.commit s.sampled)

end Sys2Proof.Machine
end

