-- ==== Sys2Proof/Machine/Reset.lean ====
section
/-! DEFINITION. RESET (spec/70_reset_and_hazards.md rule R125). -/
namespace Sys2Proof.Machine

/-- RESET(pin), rule R125: every register but `pin_q` at a constant, and `pin_q <- pin`. -/
def execReset (s : State) : Host.Outcome State Fault Refusal :=
  .next (s.commit (resetRegs s.cfg s.input.pin))

end Sys2Proof.Machine
end

