-- ==== Sys2Proof/Machine/StartOps.lean ====
section
/-! DEFINITION. The edge operations of the states AWAIT_START_MARK and AWAIT_START_SPACE (spec/41_fsm_edge_ops.md
sections 2 and 3): each as an update of the registers it receives, and as the step that performs it. -/
namespace Sys2Proof.Machine

variable {c : Config}

/-- SM_MARK_BEGIN(S), rule R77: `run <- 1; tmr <- 0; st <- SS`. -/
def Regs.smMarkBegin (r : Regs c) : Regs c :=
  r.startTimer.edgeTail .ss

/-- SM_IGNORE(S), rule R78: `tmr <- 0; st <- SM`. -/
def Regs.smIgnore (r : Regs c) : Regs c :=
  r.edgeTail .sm

/-- SS_ACCEPT(S, d), rule R79: `rx <- 1; acc <- 0; cnt <- 0; tmr <- 0; st <- BM`. -/
def Regs.ssAccept (r : Regs c) : Regs c :=
  { r.edgeTail .bm with rx := true, acc := 0, cnt := 0 }

/-- SS_RESYNC(S, d), rule R80: `fsmError(RESYNC)`. -/
def Regs.ssResync (r : Regs c) : Regs c :=
  r.fsmError .resync

/-- SS_VIOL(S), rule R81: `fsmError(VIOLATION)`. -/
def Regs.ssViol (r : Regs c) : Regs c :=
  r.fsmError .violation

/-- A step that performs SM_MARK_BEGIN, rules R60 and R77. -/
def execSmMarkBegin (s : State) : Host.Outcome State Fault Refusal :=
  .next (s.commit s.sampled.smMarkBegin)

/-- A step that performs SM_IGNORE, rules R60 and R78. -/
def execSmIgnore (s : State) : Host.Outcome State Fault Refusal :=
  .next (s.commit s.sampled.smIgnore)

/-- A step that performs SS_ACCEPT, rules R60 and R79. -/
def execSsAccept (s : State) : Host.Outcome State Fault Refusal :=
  .next (s.commit s.sampled.ssAccept)

/-- A step that performs SS_RESYNC, rules R60 and R80. -/
def execSsResync (s : State) : Host.Outcome State Fault Refusal :=
  .next (s.commit s.sampled.ssResync)

/-- A step that performs SS_VIOL, rules R60 and R81. -/
def execSsViol (s : State) : Host.Outcome State Fault Refusal :=
  .next (s.commit s.sampled.ssViol)

end Sys2Proof.Machine
end

