-- ==== Sys2Proof/Machine/Watchdog.lean ====
section
/-! DEFINITION. WDT_FIRE, the watchdog (spec/42_watchdog.md rule R95). -/
namespace Sys2Proof.Machine

/-- WDT_FIRE(S), rule R95: `rx <- 0; code <- 0; run <- 0; st <- SM`. -/
def Regs.wdtFire {c : Config} (r : Regs c) : Regs c :=
  { r.stopTimer with rx := false, code := 0, st := .sm }

/-- A step that performs WDT_FIRE, rules R60 and R95. -/
def execWdtFire (s : State) : Host.Outcome State Fault Refusal :=
  .next (s.commit s.sampled.wdtFire)

end Sys2Proof.Machine
end

