-- ==== Sys2Proof/Machine/Dispatch.lean ====
section
/-! DEFINITION. One arm per operation of spec/30_encoding.md rule R49. The fields an operation leaves open are read by
no operation. -/
namespace Sys2Proof.Machine

def exec (i : Instr) (s : State) : Host.Outcome State Fault Refusal :=
  match i with
  | .reset _ _ _ _ _ _ _ => Sys2Proof.Machine.execReset s
  | .idle _ _ _ _ _ => Sys2Proof.Machine.execIdle s
  | .wdtFire _ _ _ _ _ => Sys2Proof.Machine.execWdtFire s
  | .smMarkBegin _ _ _ _ => Sys2Proof.Machine.execSmMarkBegin s
  | .smIgnore _ _ _ _ => Sys2Proof.Machine.execSmIgnore s
  | .ssAccept _ _ _ => Sys2Proof.Machine.execSsAccept s
  | .ssResync _ _ _ => Sys2Proof.Machine.execSsResync s
  | .ssViol _ _ _ _ => Sys2Proof.Machine.execSsViol s
  | .bmMarkBegin _ _ _ _ => Sys2Proof.Machine.execBmMarkBegin s
  | .bmViol _ _ _ _ => Sys2Proof.Machine.execBmViol s
  | .bsBit0 _ _ => Sys2Proof.Machine.execBsBit0 s
  | .bsBit1 _ _ => Sys2Proof.Machine.execBsBit1 s
  | .bsLong _ _ _ => Sys2Proof.Machine.execBsLong s
  | .bsViol _ _ _ _ => Sys2Proof.Machine.execBsViol s

end Sys2Proof.Machine
end

