-- ==== Sys2Proof/Machine/Fetch.lean ====
section
/-! DEFINITION. How to make the block perform a chosen operation at its next step. The dispatch word is not stored: it is
computed from the inputs and the registers (spec/30_encoding.md rules R46 to R48), so `State.forcing` sets those. -/
namespace Sys2Proof.Machine

/-- The operation itself with open fields that a step can form: the four comparator codes that rule R50 excludes, and a
compare match with a duration other than `WDT_TICKS`, give way to the nearest formable fields of the same operation. -/
def nearest : Instr → Instr
  | .reset e m v s a b c => .reset e m v s (m || a) (m || a || b) (m || a || b || c)
  | .idle v s a b c => .idle v s a (a || b) (a || b || c)
  | .wdtFire v s _ _ _ => .wdtFire v s true true true
  | .smMarkBegin m a b c => .smMarkBegin m (m || a) (m || a || b) (m || a || b || c)
  | .smIgnore m a b c => .smIgnore m (m || a) (m || a || b) (m || a || b || c)
  | .ssAccept m _ _ => .ssAccept m true true
  | .ssResync _ b c => .ssResync false b (b || c)
  | .ssViol m a b c => .ssViol m (m || a) (m || a || b) (m || a || b || c)
  | .bmMarkBegin m a b c => .bmMarkBegin m (m || a) (m || a || b) (m || a || b || c)
  | .bmViol m a b c => .bmViol m (m || a) (m || a || b) (m || a || b || c)
  | .bsBit0 _ _ => .bsBit0 false false
  | .bsBit1 _ _ => .bsBit1 false false
  | .bsLong m a _ => .bsLong m (m || a) true
  | .bsViol m a b c => .bsViol m (m || a) (m || a || b) (m || a || b || c)

/-- A duration of the class the comparator fields name (rule R48), `WDT_TICKS` at a compare match (rule R47). -/
def durationOf (c : Config) (f : Fields) : Nat :=
  if f.cm then c.wdtTicks
  else if f.gtL then c.thrLong + 1
  else if f.geL then c.thrLong
  else if f.gtS then c.thrShort + 1
  else 1

/-- The state with the inputs of the next step, and the registers that the dispatch word reads, set so that this word
has the fields `f`: a running timer one tick before the wanted duration, and the previous pin level that makes or does
not make an edge. -/
def State.forcing (s : State) (f : Fields) : State :=
  { s with
    regs :=
      { s.regs with
        st := f.st
        tmr := BitVec.ofNat s.cfg.wTmr (durationOf s.cfg f - 1)
        run := true
        pinQ := (!f.lvl) != f.edge }
    stim := ⟨f.rst, !f.lvl⟩ :: s.stim.tail }

end Sys2Proof.Machine
end

