-- ==== Sys2Proof/Machine/Step.lean ====
section
/-! DEFINITION. One step: one rising edge of `clk` (spec/40_frontend_timer.md rule R60), which performs the operation that
the dispatch word selects; a configuration that breaks spec/00_scope.md rule R6 is refused. -/
namespace Sys2Proof.Machine

/-- One step (rules R49 and R60). -/
def step (s : State) : Host.Outcome State Fault Refusal :=
  if s.cfg.wf then exec s.fetch s else .refused .badConfig

/-- `s` with all set that makes the very next step perform the operation of the table word `w` (log entry 5). -/
def State.withFetchWord (s : State) (nbits w : Nat) : State :=
  match decodeTableWord nbits w with
  | some i => s.forcing (nearest i).fields
  | none => s

end Sys2Proof.Machine
end

