-- ==== Sys2Proof/Machine/Event.lean ====
section
/-! DEFINITION. The source's own interface, on the registers alone: `EDGE_OP` (spec/41_fsm_edge_ops.md rule R75), the
step function as rule R60 writes it (`Regs.pinStep`), and the event-level stimuli of spec/30_encoding.md rule R54.
`EDGE_OP` and `pinStep` select by comparing, not by the dispatch word; that the two selections agree is stated in
Sys2Proof/Certificates/Slice0/Obligations.lean. -/
namespace Sys2Proof.Machine

variable {c : Config}

/-- `EDGE_OP(S, lvl, d)`, rule R75: total over every state, polarity and duration (rule R51). -/
def Regs.edgeOp (r : Regs c) (lvl : Bool) (d : BitVec c.wTmr) : Regs c :=
  match r.st with
  | .sm => if lvl then r.smMarkBegin else r.smIgnore
  | .ss => if lvl then r.ssViol else if d.toNat > c.thrLong then r.ssAccept else r.ssResync
  | .bm => if lvl then r.bmMarkBegin else r.bmViol
  | .bs =>
    if lvl then r.bsViol
    else if d.toNat ≥ c.thrLong then r.bsLong
    else if d.toNat > c.thrShort then r.bsBit1 else r.bsBit0

/-- `step(S, rst, pin)`, rule R60. -/
def Regs.pinStep (r : Regs c) (i : Input) : Regs c :=
  let d := r.duration
  let s1 := r.sample i.pin
  if i.rst then resetRegs c i.pin
  else if i.pin ≠ r.pinQ then s1.edgeOp (!i.pin) d
  else if r.run = true ∧ d.toNat = c.wdtTicks then s1.wdtFire
  else s1

/-- One item of an event-level stimulus (rule R54): it samples no pin and leaves `pin_q` alone. -/
def Regs.event (r : Regs c) : Event → Regs c
  | .asserted d => r.edgeOp true (BitVec.ofNat c.wTmr d)
  | .deasserted d => r.edgeOp false (BitVec.ofNat c.wTmr d)
  | .watchdog => r.wdtFire

/-- A sequence of events, in order (rule R54). -/
def Regs.events (r : Regs c) (es : List Event) : Regs c :=
  es.foldl Regs.event r

end Sys2Proof.Machine
end

