-- ==== Sys2Proof/Machine/Ports.lean ====
section
/-! DEFINITION. The output ports (spec/10_state.md rule R21) and GETCODE (spec/43_code_read.md rule R100). They are
functions of the registers and write nothing. -/
namespace Sys2Proof.Machine

variable {c : Config}

/-- GETCODE, the port `code[15:0]`: `zext_16(S.code)` (rules R21 and R100). -/
def Regs.getCode (r : Regs c) : PortWord :=
  BitVec.setWidth 16 r.code

/-- `led_rx_n = !rx`, 0 = lit (rules R21 and R120). -/
def Regs.ledRxN (r : Regs c) : Bool :=
  !r.rx

/-- `led_fault_n = !fault`, 0 = lit (rules R21 and R120). -/
def Regs.ledFaultN (r : Regs c) : Bool :=
  !r.fault

/-- What the outside sees of a state (rule R21). -/
structure Ports where
  code : PortWord
  ledRxN : Bool
  ledFaultN : Bool
deriving DecidableEq, Repr

/-- The three output ports between two steps (rules R21, R39 and R103). -/
def Regs.ports (r : Regs c) : Ports :=
  ⟨r.getCode, r.ledRxN, r.ledFaultN⟩

end Sys2Proof.Machine
end

