-- ==== Sys2Proof/Machine/Stimulus.lean ====
section
/-! DEFINITION. The inputs a pin-level stimulus stands for, and the macros (spec/30_encoding.md rules R53 and R55). -/
namespace Sys2Proof.Machine

/-- The inputs of the steps of an item (rule R53). -/
def itemInputs : Item → List Input
  | .rst => [⟨true, true⟩]
  | .rstl => [⟨true, false⟩]
  | .high n => List.replicate n ⟨false, true⟩
  | .low n => List.replicate n ⟨false, false⟩

/-- The inputs of a stimulus, in order (rule R53). -/
def stimInputs (items : List Item) : List Input :=
  items.flatMap itemInputs

/-- `START` (rule R55): `L T_START`. -/
def startItems (c : Config) : List Item :=
  [.low c.tStart]

/-- `B0` and `B1` (rule R55): a space of `T_SHORT`, then a mark of `T_SHORT` or `T_LONG`. -/
def bitItems (c : Config) (b : Bool) : List Item :=
  [.high c.tShort, .low (if b then c.tLong else c.tShort)]

/-- `FRAME(b1 ... bn)` (rule R55). -/
def frameItems (c : Config) (bits : List Bool) : List Item :=
  startItems c ++ bits.flatMap (bitItems c)

/-- `GAP n` (rule R55). -/
def gapItems (n : Nat) : List Item :=
  [.high n]

/-- The value of a frame's bits, the first received most significant (spec/20_memory.md rule R32). -/
def msbFirst (bits : List Bool) : Nat :=
  bits.foldl (fun v b => 2 * v + b.toNat) 0

end Sys2Proof.Machine
end

