-- ==== Sys2Proof/Safety.lean ====
section
/-! DEFINITION. What the statements speak of: the invariants of the reachable states (spec/10_state.md rule R24), who
performs an operation and which error it raises (spec/60_exceptions.md rules R105 and R118), and what the outside can
tell apart (spec/93_implementation_defined.md U7 and U8). -/
namespace Sys2Proof.Machine

variable {c : Config}

/-- Rule R24, items 1 to 6, for registers at configuration `c`. Item 7 is about the steps taken, not about one state;
it is stated through the operations that write `rx`. -/
structure Regs.Inv (r : Regs c) : Prop where
  /-- item 1 -/
  stopped_awaits_start : r.run = false → r.st = .sm
  /-- item 2 -/
  running_below_window : r.run = true → r.tmr.toNat < c.wdtTicks
  /-- item 3 -/
  stopped_count : r.run = false → r.tmr.toNat = c.wdtTicks ∨ r.tmr.toNat = 0
  /-- item 4 -/
  startSpace_pin : r.st = .ss → r.pinQ = false
  /-- item 4 -/
  bitMark_pin : r.st = .bm → r.pinQ = true
  /-- item 4 -/
  bitSpace_pin : r.st = .bs → r.pinQ = false
  /-- item 5 -/
  count_le : r.cnt.toNat ≤ c.nbits
  /-- item 5 -/
  count_lt : r.st = .bm ∨ r.st = .bs → r.cnt.toNat < c.nbits
  /-- item 6 -/
  acc_lt : r.st = .bm ∨ r.st = .bs → r.acc.toNat < 2 ^ r.cnt.toNat
  /-- item 6 -/
  code_lt : r.code.toNat < 2 ^ c.nbits

/-- The configuration is accepted (rule R6) and the registers satisfy rule R24. -/
structure State.Inv (s : State) : Prop where
  cfg_wf : s.cfg.wf = true
  regs_inv : s.regs.Inv

/-- A stopped timer means that the watchdog has cleared what the reader sees: only WDT_FIRE stops it, and it is started
again before anything can write `code` or `rx`. Not an item of rule R24; it follows from rules R77 and R95. -/
def Regs.ReleasedWhenStopped (r : Regs c) : Prop :=
  r.run = false → r.code = 0 ∧ r.rx = false

end Sys2Proof.Machine

namespace Sys2Proof

/-- The eleven edge operations (spec/41_fsm_edge_ops.md). -/
def Instr.isEdgeOp : Instr → Bool
  | .reset .. => false
  | .idle .. => false
  | .wdtFire .. => false
  | .smMarkBegin .. => true
  | .smIgnore .. => true
  | .ssAccept .. => true
  | .ssResync .. => true
  | .ssViol .. => true
  | .bmMarkBegin .. => true
  | .bmViol .. => true
  | .bsBit0 .. => true
  | .bsBit1 .. => true
  | .bsLong .. => true
  | .bsViol .. => true

/-- The error an operation raises (rule R105). -/
def Instr.errorKind : Instr → Option ErrorKind
  | .ssResync .. => some .resync
  | .ssViol .. => some .violation
  | .bmViol .. => some .violation
  | .bsViol .. => some .violation
  | .bsLong .. => some .longMark
  | .reset .. => none
  | .idle .. => none
  | .wdtFire .. => none
  | .smMarkBegin .. => none
  | .smIgnore .. => none
  | .ssAccept .. => none
  | .bmMarkBegin .. => none
  | .bsBit0 .. => none
  | .bsBit1 .. => none

end Sys2Proof

namespace Sys2Proof.Machine

/-- Two register files that the outside cannot tell apart, now or later: they agree on everything but `acc` and `cnt`
while the state is neither BM nor BS (rule R12, U7: "scratch state, meaningless") and the count of a stopped timer (U8). -/
structure Regs.SameOutside (r q : Regs c) : Prop where
  st : r.st = q.st
  code : r.code = q.code
  rx : r.rx = q.rx
  fault : r.fault = q.fault
  run : r.run = q.run
  pinQ : r.pinQ = q.pinQ
  acc : r.st = .bm ∨ r.st = .bs → r.acc = q.acc
  cnt : r.st = .bm ∨ r.st = .bs → r.cnt = q.cnt
  tmr : r.run = true → r.tmr = q.tmr

/-- Whether the coming step writes `code` (rules R25 and R102): a RESET, a WDT_FIRE or the shift that completes a frame. -/
def State.writesCode (s : State) : Bool :=
  match s.fetch with
  | .reset .. => true
  | .wdtFire .. => true
  | .bsBit0 .. => decide ((countedBit s.regs.cnt).toNat = s.cfg.nbits)
  | .bsBit1 .. => decide ((countedBit s.regs.cnt).toNat = s.cfg.nbits)
  | .idle .. => false
  | .smMarkBegin .. => false
  | .smIgnore .. => false
  | .ssAccept .. => false
  | .ssResync .. => false
  | .ssViol .. => false
  | .bmMarkBegin .. => false
  | .bmViol .. => false
  | .bsLong .. => false
  | .bsViol .. => false

/-- `n` steps of the machine. -/
def runFor (n : Nat) (s : State) : Host.Outcome State Fault Refusal :=
  Host.Core.run Sys2Proof.core n s

/-- The items of a frame whose start mark lasts `startMark` ticks and whose bits have the given spaces and marks, in
ticks (spec/41_fsm_edge_ops.md rule R92). -/
def timedFrame (startMark : Nat) (bits : List (Nat × Nat)) : List Item :=
  .low startMark :: bits.flatMap fun b => [.high b.1, .low b.2]

end Sys2Proof.Machine
end

