-- ==== Sys2Proof/Laws/Decode.lean ====
section
/-! SUPPORT. The word of given fields selects an operation by those fields: the reading of rule R49 that later proofs
cite instead of unfolding masks. -/
namespace Sys2Proof

@[simp] theorem DecoderState.ofBits_bits (x : DecoderState) : DecoderState.ofBits x.bits = x := by
  cases x <;> rfl

/-- Reading the map of rule R49 by fields: `rst` first, then `edge`, then `cm`. -/
def Fields.select (f : Fields) : Instr :=
  match f.rst, f.edge, f.cm, f.st, f.lvl with
  | true, e, m, x, v => .reset e m v x f.gtL f.geL f.gtS
  | false, false, false, x, v => .idle v x f.gtL f.geL f.gtS
  | false, false, true, x, v => .wdtFire v x f.gtL f.geL f.gtS
  | false, true, m, .sm, true => .smMarkBegin m f.gtL f.geL f.gtS
  | false, true, m, .sm, false => .smIgnore m f.gtL f.geL f.gtS
  | false, true, m, .ss, true => .ssViol m f.gtL f.geL f.gtS
  | false, true, m, .ss, false => bif f.gtL then .ssAccept m f.geL f.gtS else .ssResync m f.geL f.gtS
  | false, true, m, .bm, true => .bmMarkBegin m f.gtL f.geL f.gtS
  | false, true, m, .bm, false => .bmViol m f.gtL f.geL f.gtS
  | false, true, m, .bs, true => .bsViol m f.gtL f.geL f.gtS
  | false, true, m, .bs, false =>
    bif f.geL then .bsLong m f.gtL f.gtS else bif f.gtS then .bsBit1 m f.gtL else .bsBit0 m f.gtL

theorem decode_pack (f : Fields) : decode f.pack = f.select := by
  obtain ⟨r, e, m, v, x, a, b, d⟩ := f
  cases x <;> revert r e m v a b d <;> decide

theorem Machine.State.fetch_eq_select (s : Machine.State) : s.fetch = (s.regs.dispatchFields s.input).select :=
  decode_pack _

end Sys2Proof
end

