-- ==== Sys2Proof/Laws/State.lean ====
section
/-! SUPPORT. One lemma per field per update of the state and of the registers, so that no later proof unfolds one. -/
namespace Sys2Proof.Machine

variable {c : Config}

@[simp] theorem State.commit_cfg (s : State) (r : Regs s.cfg) : (s.commit r).cfg = s.cfg := rfl
@[simp] theorem State.commit_regs (s : State) (r : Regs s.cfg) : (s.commit r).regs = r := rfl
@[simp] theorem State.commit_stim (s : State) (r : Regs s.cfg) : (s.commit r).stim = s.stim.tail := rfl
@[simp] theorem State.commit_clock (s : State) (r : Regs s.cfg) : (s.commit r).clock = s.clock + 1 := rfl

@[simp] theorem Regs.sample_st (r : Regs c) (p : Bool) : (r.sample p).st = r.st := rfl
@[simp] theorem Regs.sample_acc (r : Regs c) (p : Bool) : (r.sample p).acc = r.acc := rfl
@[simp] theorem Regs.sample_cnt (r : Regs c) (p : Bool) : (r.sample p).cnt = r.cnt := rfl
@[simp] theorem Regs.sample_code (r : Regs c) (p : Bool) : (r.sample p).code = r.code := rfl
@[simp] theorem Regs.sample_rx (r : Regs c) (p : Bool) : (r.sample p).rx = r.rx := rfl
@[simp] theorem Regs.sample_fault (r : Regs c) (p : Bool) : (r.sample p).fault = r.fault := rfl
@[simp] theorem Regs.sample_tmr (r : Regs c) (p : Bool) : (r.sample p).tmr = r.duration := rfl
@[simp] theorem Regs.sample_run (r : Regs c) (p : Bool) : (r.sample p).run = r.run := rfl
@[simp] theorem Regs.sample_pinQ (r : Regs c) (p : Bool) : (r.sample p).pinQ = p := rfl

@[simp] theorem Regs.edgeTail_st (r : Regs c) (x : DecoderState) : (r.edgeTail x).st = x := rfl
@[simp] theorem Regs.edgeTail_acc (r : Regs c) (x : DecoderState) : (r.edgeTail x).acc = r.acc := rfl
@[simp] theorem Regs.edgeTail_cnt (r : Regs c) (x : DecoderState) : (r.edgeTail x).cnt = r.cnt := rfl
@[simp] theorem Regs.edgeTail_code (r : Regs c) (x : DecoderState) : (r.edgeTail x).code = r.code := rfl
@[simp] theorem Regs.edgeTail_rx (r : Regs c) (x : DecoderState) : (r.edgeTail x).rx = r.rx := rfl
@[simp] theorem Regs.edgeTail_fault (r : Regs c) (x : DecoderState) : (r.edgeTail x).fault = r.fault := rfl
@[simp] theorem Regs.edgeTail_tmr (r : Regs c) (x : DecoderState) : (r.edgeTail x).tmr = 0 := rfl
@[simp] theorem Regs.edgeTail_run (r : Regs c) (x : DecoderState) : (r.edgeTail x).run = r.run := rfl
@[simp] theorem Regs.edgeTail_pinQ (r : Regs c) (x : DecoderState) : (r.edgeTail x).pinQ = r.pinQ := rfl

@[simp] theorem Regs.fsmError_st (r : Regs c) (k : ErrorKind) : (r.fsmError k).st = .sm := rfl
@[simp] theorem Regs.fsmError_acc (r : Regs c) (k : ErrorKind) : (r.fsmError k).acc = r.acc := rfl
@[simp] theorem Regs.fsmError_cnt (r : Regs c) (k : ErrorKind) : (r.fsmError k).cnt = r.cnt := rfl
@[simp] theorem Regs.fsmError_code (r : Regs c) (k : ErrorKind) : (r.fsmError k).code = r.code := rfl
@[simp] theorem Regs.fsmError_rx (r : Regs c) (k : ErrorKind) : (r.fsmError k).rx = r.rx := rfl
@[simp] theorem Regs.fsmError_fault (r : Regs c) (k : ErrorKind) :
    (r.fsmError k).fault = (r.fault || setsFault k) := rfl
@[simp] theorem Regs.fsmError_tmr (r : Regs c) (k : ErrorKind) : (r.fsmError k).tmr = 0 := rfl
@[simp] theorem Regs.fsmError_run (r : Regs c) (k : ErrorKind) : (r.fsmError k).run = r.run := rfl
@[simp] theorem Regs.fsmError_pinQ (r : Regs c) (k : ErrorKind) : (r.fsmError k).pinQ = r.pinQ := rfl

@[simp] theorem Regs.shiftIn_acc (r : Regs c) (b : Bool) : (r.shiftIn b).acc = shiftedAcc r.acc b := by
  simp only [Regs.shiftIn]; split <;> rfl
@[simp] theorem Regs.shiftIn_cnt (r : Regs c) (b : Bool) : (r.shiftIn b).cnt = countedBit r.cnt := by
  simp only [Regs.shiftIn]; split <;> rfl
@[simp] theorem Regs.shiftIn_rx (r : Regs c) (b : Bool) : (r.shiftIn b).rx = r.rx := by
  simp only [Regs.shiftIn]; split <;> rfl
@[simp] theorem Regs.shiftIn_fault (r : Regs c) (b : Bool) : (r.shiftIn b).fault = r.fault := by
  simp only [Regs.shiftIn]; split <;> rfl
@[simp] theorem Regs.shiftIn_tmr (r : Regs c) (b : Bool) : (r.shiftIn b).tmr = 0 := by
  simp only [Regs.shiftIn]; split <;> rfl
@[simp] theorem Regs.shiftIn_run (r : Regs c) (b : Bool) : (r.shiftIn b).run = r.run := by
  simp only [Regs.shiftIn]; split <;> rfl
@[simp] theorem Regs.shiftIn_pinQ (r : Regs c) (b : Bool) : (r.shiftIn b).pinQ = r.pinQ := by
  simp only [Regs.shiftIn]; split <;> rfl

@[simp] theorem Regs.startTimer_run (r : Regs c) : r.startTimer.run = true := rfl
@[simp] theorem Regs.stopTimer_run (r : Regs c) : r.stopTimer.run = false := rfl
@[simp] theorem Regs.stopTimer_tmr (r : Regs c) : r.stopTimer.tmr = r.tmr := rfl
@[simp] theorem Regs.resetTimer_tmr (r : Regs c) : r.resetTimer.tmr = 0 := rfl

@[simp] theorem State.sampled_eq (s : State) : s.sampled = s.regs.sample s.input.pin := rfl

theorem State.input_of_cons {s : State} {i : Input} {rest : List Input} (h : s.stim = i :: rest) : s.input = i := by
  simp [State.input, h]

/-- The reset state's registers are what a RESET step with `pin` = 1 leaves (rules R23 and R125). -/
theorem State.reset_regs : State.reset.regs = resetRegs Config.reference true := rfl

end Sys2Proof.Machine
end

