-- ==== Sys2Proof/Laws/Ops.lean ====
section
/-! SUPPORT. One lemma per shared operation that says once what it does. -/
namespace Sys2Proof

/-- Rule R6, as arithmetic. -/
theorem Config.wf_iff (c : Config) :
    c.wf = true ↔ 0 < c.thrShort ∧ c.thrShort < c.thrLong ∧ c.thrLong < c.wdtTicks ∧ c.wdtTicks < 2 ^ c.wTmr
      ∧ 1 ≤ c.nbits ∧ c.nbits ≤ 2 ^ c.wCnt - 1 ∧ c.nbits ≤ c.wAcc := by
  simp [Config.wf, and_assoc]

namespace Machine

variable {c : Config}

theorem Regs.duration_running {r : Regs c} (h : r.run = true) : r.duration = r.tmr + 1 := by
  simp [Regs.duration, h]

theorem Regs.duration_stopped {r : Regs c} (h : r.run = false) : r.duration = r.tmr := by
  simp [Regs.duration, h]

/-- While the count is below the window, the advanced count does not wrap (rule R65). -/
theorem Regs.duration_toNat_running {r : Regs c} (hc : c.wf = true) (h : r.run = true)
    (hlt : r.tmr.toNat < c.wdtTicks) : r.duration.toNat = r.tmr.toNat + 1 := by
  have hw := (Config.wf_iff c).1 hc
  rw [Regs.duration_running h, BitVec.toNat_add]
  have h1 : (1 : BitVec c.wTmr).toNat = 1 % 2 ^ c.wTmr := BitVec.toNat_ofNat _ _
  rw [h1, Nat.add_mod_mod, Nat.mod_eq_of_lt]
  omega

/-- The accumulator's update is an unsigned shift with the new bit at bit 0 (rule R89 (a)). -/
theorem shiftedAcc_toNat (a : BitVec c.wAcc) (b : Bool) :
    (shiftedAcc a b).toNat = (2 * a.toNat + b.toNat) % 2 ^ c.wAcc := by
  have h0 : (BitVec.setWidth c.wAcc (BitVec.ofBool b)) = BitVec.ofNat c.wAcc b.toNat := by
    apply BitVec.eq_of_toNat_eq
    cases b <;> simp
  have hsum : (a <<< 1) ||| BitVec.ofNat c.wAcc b.toNat = (a <<< 1) + BitVec.ofNat c.wAcc b.toNat := by
    symm
    apply BitVec.add_eq_or_of_and_eq_zero
    apply BitVec.eq_of_getLsbD_eq
    intro i hi
    cases i with
    | zero => simp
    | succ j => cases b <;> simp
  rw [shiftedAcc, h0, hsum, BitVec.toNat_add, BitVec.toNat_shiftLeft, BitVec.toNat_ofNat, ← Nat.add_mod,
    Nat.shiftLeft_eq]
  congr 1
  omega

/-- The count's update (rule R89 (b)). -/
theorem countedBit_toNat (n : BitVec c.wCnt) : (countedBit n).toNat = (n.toNat + 1) % 2 ^ c.wCnt := by
  have h1 : (1 : BitVec c.wCnt).toNat = 1 % 2 ^ c.wCnt := BitVec.toNat_ofNat _ _
  rw [countedBit, BitVec.toNat_add, h1, Nat.add_mod_mod]

/-- `SHIFT_IN` publishes (rule R86). -/
theorem Regs.shiftIn_last {r : Regs c} {b : Bool} (h : (countedBit r.cnt).toNat = c.nbits) :
    r.shiftIn b = { r with
      st := .sm, acc := shiftedAcc r.acc b, cnt := countedBit r.cnt, code := shiftedAcc r.acc b, tmr := 0 } := by
  simp [Regs.shiftIn, h, Regs.edgeTail, Regs.resetTimer]

/-- `SHIFT_IN` goes on (rule R86). -/
theorem Regs.shiftIn_more {r : Regs c} {b : Bool} (h : (countedBit r.cnt).toNat ≠ c.nbits) :
    r.shiftIn b = { r with st := .bm, acc := shiftedAcc r.acc b, cnt := countedBit r.cnt, tmr := 0 } := by
  simp [Regs.shiftIn, h, Regs.edgeTail, Regs.resetTimer]

/-- What a step can do: every operation answers a next state, which differs from the old one in the registers and in
the inputs used up. -/
theorem exec_eq_commit (i : Instr) (s : State) : ∃ r : Regs s.cfg, exec i s = .next (s.commit r) := by
  cases i <;> exact ⟨_, rfl⟩

theorem step_of_wf {s : State} (h : s.cfg.wf = true) : step s = exec s.fetch s := by
  simp [step, h]

theorem step_of_not_wf {s : State} (h : s.cfg.wf = false) : step s = .refused .badConfig := by
  simp [step, h]

/-- A step that answers a next state ran its operation at an accepted configuration. -/
theorem step_next_inv {s t : State} (h : step s = .next t) : s.cfg.wf = true ∧ exec s.fetch s = .next t := by
  cases hw : s.cfg.wf with
  | false => simp [step_of_not_wf hw] at h
  | true => exact ⟨rfl, by rw [← step_of_wf hw, h]⟩

theorem exec_next_cfg {i : Instr} {s t : State} (h : exec i s = .next t) : t.cfg = s.cfg := by
  obtain ⟨r, hr⟩ := exec_eq_commit i s
  rw [hr] at h
  cases h
  rfl

@[simp] theorem runFor_zero (s : State) : runFor 0 s = .next s := rfl

/-- `runFor` takes one step, then the rest. -/
theorem runFor_succ {n : Nat} {s t : State} (h : step s = .next t) : runFor (n + 1) s = runFor n t := by
  have : Sys2Proof.core.step s = .next t := h
  simp only [runFor, Host.Core.run, this]
  rfl

/-- Two runs, one after the other. -/
theorem runFor_add {m n : Nat} {s t : State} (h : runFor m s = .next t) : runFor (m + n) s = runFor n t := by
  induction m generalizing s with
  | zero => cases h; simp
  | succ m ih =>
    cases hs : step s with
    | next u =>
      rw [runFor_succ hs] at h
      rw [Nat.succ_add, runFor_succ hs, ih h]
    | fault r => cases r
    | refused r =>
      have hr : Sys2Proof.core.step s = .refused r := hs
      simp [runFor, Host.Core.run, hr] at h

end Machine
end Sys2Proof
end

