-- ==== Sys2Proof/Laws/PerInstr.lean ====
section
/-! SUPPORT. Statements made for every operation, one lemma per constructor. -/

theorem Sys2Proof.Instr.row_mem_opcodeTable (i : Sys2Proof.Instr) : i.row ∈ Sys2Proof.opcodeTable := by
  cases i <;> simp [Sys2Proof.Instr.row, Sys2Proof.opcodeTable]

namespace Sys2Proof.Laws.FitsRow

/-- An operation's word has the bits that its row of rule R49 fixes, and its row carries its mnemonic. -/
def Statement (i : Instr) : Prop :=
  i.row.selects (encode i) = true ∧ i.row ∈ opcodeTable ∧ i.row.mnemonic = i.mnemonic

theorem reset (e m v : Bool) (x : DecoderState) (a b d : Bool) : Statement (.reset e m v x a b d) := by
  refine ⟨?_, Instr.row_mem_opcodeTable _, rfl⟩
  cases x <;> revert e m v a b d <;> decide

theorem idle (v : Bool) (x : DecoderState) (a b d : Bool) : Statement (.idle v x a b d) := by
  refine ⟨?_, Instr.row_mem_opcodeTable _, rfl⟩
  cases x <;> revert v a b d <;> decide

theorem wdtFire (v : Bool) (x : DecoderState) (a b d : Bool) : Statement (.wdtFire v x a b d) := by
  refine ⟨?_, Instr.row_mem_opcodeTable _, rfl⟩
  cases x <;> revert v a b d <;> decide

theorem smMarkBegin (m a b d : Bool) : Statement (.smMarkBegin m a b d) :=
  ⟨by revert m a b d; decide, Instr.row_mem_opcodeTable _, rfl⟩

theorem smIgnore (m a b d : Bool) : Statement (.smIgnore m a b d) :=
  ⟨by revert m a b d; decide, Instr.row_mem_opcodeTable _, rfl⟩

theorem ssAccept (m b d : Bool) : Statement (.ssAccept m b d) :=
  ⟨by revert m b d; decide, Instr.row_mem_opcodeTable _, rfl⟩

theorem ssResync (m b d : Bool) : Statement (.ssResync m b d) :=
  ⟨by revert m b d; decide, Instr.row_mem_opcodeTable _, rfl⟩

theorem ssViol (m a b d : Bool) : Statement (.ssViol m a b d) :=
  ⟨by revert m a b d; decide, Instr.row_mem_opcodeTable _, rfl⟩

theorem bmMarkBegin (m a b d : Bool) : Statement (.bmMarkBegin m a b d) :=
  ⟨by revert m a b d; decide, Instr.row_mem_opcodeTable _, rfl⟩

theorem bmViol (m a b d : Bool) : Statement (.bmViol m a b d) :=
  ⟨by revert m a b d; decide, Instr.row_mem_opcodeTable _, rfl⟩

theorem bsBit0 (m a : Bool) : Statement (.bsBit0 m a) :=
  ⟨by revert m a; decide, Instr.row_mem_opcodeTable _, rfl⟩

theorem bsBit1 (m a : Bool) : Statement (.bsBit1 m a) :=
  ⟨by revert m a; decide, Instr.row_mem_opcodeTable _, rfl⟩

theorem bsLong (m a d : Bool) : Statement (.bsLong m a d) :=
  ⟨by revert m a d; decide, Instr.row_mem_opcodeTable _, rfl⟩

theorem bsViol (m a b d : Bool) : Statement (.bsViol m a b d) :=
  ⟨by revert m a b d; decide, Instr.row_mem_opcodeTable _, rfl⟩

end Sys2Proof.Laws.FitsRow
end

