-- ==== Sys2Proof/Certificates/Slice0/Obligations.lean ====
section
/-! DEFINITION. The statements for the provers. Each docstring names the rule or the section of spec/ it formalises.
A state is taken to its successor by `State.commit`: the registers given, the step's inputs used up, one more step
counted. -/
open Sys2Proof Sys2Proof.Machine

/-! ### Encoding -/

/-- spec/95_test_vectors.md section 2.1: words written out from the patterns of rule R49, with the operation each
stands for and its open fields. -/
def Obligations.SpecWordsDecodeToTheirOperations : Prop :=
  decode 0b100000000#9 = .reset false false false .sm false false false
    ∧ decode 0b111111111#9 = .reset true true true .bs true true true
    ∧ decode 0b000111111#9 = .idle true .bs true true true
    ∧ decode 0b001000111#9 = .wdtFire false .sm true true true
    ∧ decode 0b011100111#9 = .smMarkBegin true true true true
    ∧ decode 0b010000001#9 = .smIgnore false false false true
    ∧ decode 0b010001111#9 = .ssAccept false true true
    ∧ decode 0b010001011#9 = .ssResync false true true
    ∧ decode 0b010101000#9 = .ssViol false false false false
    ∧ decode 0b010110000#9 = .bmMarkBegin false false false false
    ∧ decode 0b010010111#9 = .bmViol false true true true
    ∧ decode 0b010011000#9 = .bsBit0 false false
    ∧ decode 0b010011001#9 = .bsBit1 false false
    ∧ decode 0b011011111#9 = .bsLong true true true
    ∧ decode 0b010111001#9 = .bsViol false false false true

/-- Rules R45 and R49: decoding an operation's word gives the operation back with every open field, and encoding what a
word decodes to gives the word back, so no bit of a word is dropped. -/
def Obligations.DecodeAndEncodeAgree : Prop :=
  (∀ i : Instr, decode (encode i) = i) ∧ ∀ w : DispatchWord, encode (decode w) = w

/-- Rule R49: the table as the rule writes it; every word is selected by exactly one row, the row of the operation it
decodes to. -/
def Obligations.EveryWordSelectsExactlyOneRow : Prop :=
  opcodeTable.map (fun r => (r.mnemonic, r.pattern.toNat, r.mask.toNat)) =
      [("RESET", 0x100, 0x100), ("IDLE", 0x000, 0x1C0), ("WDT_FIRE", 0x040, 0x1C0), ("SM_MARK_BEGIN", 0x0A0, 0x1B8),
        ("SM_IGNORE", 0x080, 0x1B8), ("SS_ACCEPT", 0x08C, 0x1BC), ("SS_RESYNC", 0x088, 0x1BC),
        ("SS_VIOL", 0x0A8, 0x1B8), ("BM_MARK_BEGIN", 0x0B0, 0x1B8), ("BM_VIOL", 0x090, 0x1B8),
        ("BS_BIT0", 0x098, 0x1BB), ("BS_BIT1", 0x099, 0x1BB), ("BS_LONG", 0x09A, 0x1BA), ("BS_VIOL", 0x0B8, 0x1B8)]
    ∧ ∀ w : DispatchWord,
        (decode w).row ∈ opcodeTable ∧ (decode w).row.selects w = true ∧ (decode w).row.mnemonic = (decode w).mnemonic
          ∧ ∀ r ∈ opcodeTable, r.selects w = true → r = (decode w).row

/-- The encoding of DecoderState (spec/10_state.md, table of rule R11; the codes are the spec's decision D4): the four
codes, and reading a code gives the state back. -/
def Obligations.StateCodesAreAsListed : Prop :=
  DecoderState.bits .sm = 0b00#2 ∧ DecoderState.bits .ss = 0b01#2 ∧ DecoderState.bits .bm = 0b10#2
    ∧ DecoderState.bits .bs = 0b11#2 ∧ ∀ b : BitVec 2, (DecoderState.ofBits b).bits = b

/-- Rule R45, with the fields as rules R46 to R48 assemble them: each bit of the word the coming step forms. -/
def Obligations.DispatchWordFields : Prop :=
  ∀ s : State,
    s.dispatchWord[8] = s.input.rst
      ∧ s.dispatchWord[7] = (s.input.pin != s.regs.pinQ)
      ∧ s.dispatchWord[6] = (s.regs.run && decide (s.regs.duration.toNat = s.cfg.wdtTicks))
      ∧ s.dispatchWord[5] = !s.input.pin
      ∧ s.dispatchWord.extractLsb' 3 2 = s.regs.st.bits
      ∧ s.dispatchWord[2] = decide (s.regs.duration.toNat > s.cfg.thrLong)
      ∧ s.dispatchWord[1] = decide (s.regs.duration.toNat ≥ s.cfg.thrLong)
      ∧ s.dispatchWord[0] = decide (s.regs.duration.toNat > s.cfg.thrShort)

/-- Rule R48: the duration operand, and the four classes of durations with their comparator bits. -/
def Obligations.DurationOperandAndItsClasses : Prop :=
  ∀ (c : Config) (r : Regs c), c.wf = true →
    (r.run = true → r.duration.toNat = (r.tmr.toNat + 1) % 2 ^ c.wTmr)
      ∧ (r.run = false → r.duration = r.tmr)
      ∧ ∀ d : BitVec c.wTmr,
        (d.toNat ≤ c.thrShort → (gtLong d, geLong d, gtShort d) = (false, false, false))
          ∧ (c.thrShort < d.toNat → d.toNat < c.thrLong → (gtLong d, geLong d, gtShort d) = (false, false, true))
          ∧ (d.toNat = c.thrLong → (gtLong d, geLong d, gtShort d) = (false, true, true))
          ∧ (d.toNat > c.thrLong → (gtLong d, geLong d, gtShort d) = (true, true, true))

/-- spec/30_encoding.md section 4 (rule R50, derived there): at an accepted configuration the comparator codes 010, 100,
101 and 110 are never formed; and a compare match comes only with `gtL` (spec/95_test_vectors.md section 2.1). -/
def Obligations.ImpossibleCodesAreNeverFormed : Prop :=
  ∀ s : State, s.cfg.wf = true → s.fetch.fields.formable = true

/-- Log entry 5 (the model's choice): after `withFetchWord` the very next step runs the operation of the word, its open
fields moved to the nearest ones a step can form; a formable word is run exactly. -/
def Obligations.PlacedWordIsTheNextOperation : Prop :=
  ∀ (s : State) (w : DispatchWord), s.cfg.wf = true → s.cfg.classesInhabited = true →
    (s.withFetchWord 16 w.toNat).fetch = nearest (decode w)
      ∧ step (s.withFetchWord 16 w.toNat) = exec (nearest (decode w)) (s.withFetchWord 16 w.toNat)
      ∧ (nearest (decode w)).row = (decode w).row
      ∧ ((decode w).fields.formable = true → nearest (decode w) = decode w)

/-! ### The step -/

/-- spec/30_encoding.md section 3: a step runs the operation its dispatch word decodes to, and does nothing else. -/
def Obligations.StepRunsTheDecodedOperation : Prop :=
  ∀ s : State, s.cfg.wf = true → step s = exec (decode s.dispatchWord) s

/-- spec/00_scope.md section 4: the constraints are those of rule R6, and the reference configuration breaks none. The
rule says that a model refuses a configuration that breaks them and not at what point: that it is the step which
refuses, exactly then, is the model's choice (log entry 8). -/
def Obligations.BrokenConfigurationIsRefused : Prop :=
  Config.reference.wf = true
    ∧ ∀ s : State, step s = .refused .badConfig ↔
      ¬ (0 < s.cfg.thrShort ∧ s.cfg.thrShort < s.cfg.thrLong ∧ s.cfg.thrLong < s.cfg.wdtTicks
        ∧ s.cfg.wdtTicks < 2 ^ s.cfg.wTmr ∧ 1 ≤ s.cfg.nbits ∧ s.cfg.nbits ≤ 2 ^ s.cfg.wCnt - 1
        ∧ s.cfg.nbits ≤ s.cfg.wAcc)

/-- Rule R5: the reference column, its µs values at 2 ticks per µs, and the thresholds as midpoints of the nominal
periods. -/
def Obligations.ReferenceParameters : Prop :=
  Config.atTickRate 2000000 = Config.reference
    ∧ 2 * Config.reference.thrShort = 3 * Config.reference.tShort
    ∧ 2 * Config.reference.thrLong = 3 * Config.reference.tLong
    ∧ Config.reference.wdtTicks = 52000 ∧ Config.reference.nbits = 15
    ∧ Config.reference.wTmr = 16 ∧ Config.reference.wAcc = 16 ∧ Config.reference.wCnt = 4

/-- Rule R60: the machine that decodes the dispatch word is the step function of the rule, which selects by comparing
(`Regs.pinStep`, with `EDGE_OP` of rule R75); it answers a next state from every state and for all inputs. -/
def Obligations.StepIsTheStepFunction : Prop :=
  ∀ s : State, s.cfg.wf = true → step s = .next (s.commit (s.regs.pinStep s.input))

/-- Rule R113: RESET over an edge, an edge over a compare match (the operand is then `WDT_TICKS` and the match is
dropped), a compare match over IDLE. -/
def Obligations.EventPriority : Prop :=
  ∀ s : State, s.cfg.wf = true →
    (s.input.rst = true → step s = .next (s.commit (resetRegs s.cfg s.input.pin)))
      ∧ (s.input.rst = false → s.input.pin ≠ s.regs.pinQ →
          s.regs.run = true → s.regs.duration.toNat = s.cfg.wdtTicks →
          step s = .next (s.commit (s.sampled.edgeOp (!s.input.pin) (BitVec.ofNat s.cfg.wTmr s.cfg.wdtTicks)))
            ∧ (s.sampled.edgeOp (!s.input.pin) (BitVec.ofNat s.cfg.wTmr s.cfg.wdtTicks)).tmr = 0)
      ∧ (s.input.rst = false → s.input.pin = s.regs.pinQ →
          s.regs.run = true → s.regs.duration.toNat = s.cfg.wdtTicks →
          step s = .next (s.commit s.sampled.wdtFire))
      ∧ (s.input.rst = false → s.input.pin = s.regs.pinQ →
          (s.regs.run = false ∨ s.regs.duration.toNat ≠ s.cfg.wdtTicks) →
          step s = .next (s.commit s.sampled))

/-- Rule R61: `pin_q <- pin` at every step; a step performs an edge operation exactly when the sampled level changed and
`rst` is 0; the level after the change is the edge's polarity. -/
def Obligations.EdgeDetectorSamplesEveryStep : Prop :=
  ∀ s : State, s.cfg.wf = true → ∃ t, step s = .next t ∧ t.regs.pinQ = s.input.pin
    ∧ (s.fetch.isEdgeOp = true ↔ s.input.rst = false ∧ s.input.pin ≠ s.regs.pinQ)
    ∧ (s.fetch.fields.lvl = !s.input.pin)

/-- Rule R62: the count after any step, and when the timer runs after it. -/
def Obligations.TimerAdvancesResetsAndStops : Prop :=
  ∀ s : State, s.cfg.wf = true → ∃ t, step s = .next t
    ∧ (s.input.rst = true ∨ s.input.pin ≠ s.regs.pinQ → t.regs.tmr.toNat = 0)
    ∧ (s.input.rst = false → s.input.pin = s.regs.pinQ → s.regs.run = true →
        t.regs.tmr.toNat = (s.regs.tmr.toNat + 1) % 2 ^ s.cfg.wTmr)
    ∧ (s.input.rst = false → s.input.pin = s.regs.pinQ → s.regs.run = false →
        t.regs.tmr.toNat = s.regs.tmr.toNat)
    ∧ (t.regs.run = true ↔
        s.input.rst = true
          ∨ (s.input.pin ≠ s.regs.pinQ ∧ s.input.pin = false ∧ s.regs.st = .sm)
          ∨ (s.regs.run = true ∧ ¬ (s.input.pin = s.regs.pinQ ∧ s.regs.duration.toNat = s.cfg.wdtTicks)))

/-! ### The operations -/

/-- Rule R125: the words that select RESET, its effect, that a step performs it exactly when `rst` = 1 and at no other
time, whatever the edge detector and the timer say, and what such a step leaves. -/
def Obligations.ResetSetsEveryRegister : Prop :=
  (∀ w : DispatchWord, w &&& 0x100#9 = 0x100#9 ↔ ∃ e m v x a b d, decode w = .reset e m v x a b d)
    ∧ (∀ (e m v : Bool) (x : DecoderState) (a b d : Bool) (s : State),
        exec (.reset e m v x a b d) s = .next (s.commit
          { st := .sm, acc := 0, cnt := 0, code := 0, rx := false, fault := false, tmr := 0, run := true,
            pinQ := s.input.pin }))
    ∧ (∀ s : State, (∃ e m v x a b d, s.fetch = .reset e m v x a b d) ↔ s.input.rst = true)
    ∧ ∀ s : State, s.cfg.wf = true → s.input.rst = true → step s = .next (s.commit
        { st := .sm, acc := 0, cnt := 0, code := 0, rx := false, fault := false, tmr := 0, run := true,
          pinQ := s.input.pin })

/-- spec/70_reset_and_hazards.md section 1 (a corner case derived there): a pin that is steady across the release of
reset makes no edge, whichever level it has; the first step after reset is an IDLE. -/
def Obligations.NoEdgeAtReleaseOfReset : Prop :=
  ∀ (s : State) (p : Bool) (rest : List Input), s.cfg.wf = true → s.stim = ⟨true, p⟩ :: ⟨false, p⟩ :: rest →
    runFor 2 s = .next
      { cfg := s.cfg
        regs :=
          { st := .sm, acc := 0, cnt := 0, code := 0, rx := false, fault := false, tmr := 1, run := true, pinQ := p }
        stim := rest
        clock := s.clock + 2 }

/-- Rule R66: IDLE only ticks the timer and samples the pin. -/
def Obligations.IdleOnlyTicks : Prop :=
  (∀ w : DispatchWord, w &&& 0x1C0#9 = 0x000#9 ↔ ∃ v x a b d, decode w = .idle v x a b d)
    ∧ (∀ (v : Bool) (x : DecoderState) (a b d : Bool) (s : State),
        exec (.idle v x a b d) s =
          .next (s.commit { s.regs with
            tmr := if s.regs.run then s.regs.tmr + 1 else s.regs.tmr, pinQ := s.input.pin }))
    ∧ ∀ s : State, s.cfg.wf = true → s.input.rst = false → s.input.pin = s.regs.pinQ →
        (s.regs.run = false ∨ s.regs.duration.toNat ≠ s.cfg.wdtTicks) →
        step s = .next (s.commit { s.regs with tmr := if s.regs.run then s.regs.tmr + 1 else s.regs.tmr })

/-- Rule R95: WDT_FIRE clears the code and the receiving indicator, stops the timer and returns to AWAIT_START_MARK;
`fault`, `acc` and `cnt` stay; selected from any state, in a step without an edge whose advanced count is `WDT_TICKS`. -/
def Obligations.WatchdogClearsCodeAndStopsTimer : Prop :=
  (∀ w : DispatchWord, w &&& 0x1C0#9 = 0x040#9 ↔ ∃ v x a b d, decode w = .wdtFire v x a b d)
    ∧ (∀ (v : Bool) (x : DecoderState) (a b d : Bool) (s : State),
        exec (.wdtFire v x a b d) s = .next (s.commit { s.regs with
          rx := false, code := 0, run := false, st := .sm, tmr := s.regs.duration, pinQ := s.input.pin }))
    ∧ ∀ s : State, s.cfg.wf = true → s.input.rst = false → s.input.pin = s.regs.pinQ →
        s.regs.run = true → s.regs.duration.toNat = s.cfg.wdtTicks →
        step s = .next (s.commit { s.regs with
          rx := false, code := 0, run := false, st := .sm, tmr := BitVec.ofNat s.cfg.wTmr s.cfg.wdtTicks })

/-- Rule R77: SM_MARK_BEGIN starts the timer from 0 and awaits the start space, whatever the duration. -/
def Obligations.AssertedEdgeBeginsStartMark : Prop :=
  (∀ w : DispatchWord, w &&& 0x1B8#9 = 0x0A0#9 ↔ ∃ m a b d, decode w = .smMarkBegin m a b d)
    ∧ (∀ (m a b d : Bool) (s : State), exec (.smMarkBegin m a b d) s =
        .next (s.commit { s.regs with run := true, tmr := 0, st := .ss, pinQ := s.input.pin }))
    ∧ ∀ s : State, s.cfg.wf = true → s.input.rst = false → s.regs.pinQ = true → s.input.pin = false →
        s.regs.st = .sm →
        step s = .next (s.commit { s.regs with run := true, tmr := 0, st := .ss, pinQ := false })

/-- Rule R78: SM_IGNORE resets the count and changes nothing else; a stopped timer stays stopped. -/
def Obligations.DeassertedEdgeInStartIsIgnored : Prop :=
  (∀ w : DispatchWord, w &&& 0x1B8#9 = 0x080#9 ↔ ∃ m a b d, decode w = .smIgnore m a b d)
    ∧ (∀ (m a b d : Bool) (s : State), exec (.smIgnore m a b d) s =
        .next (s.commit { s.regs with tmr := 0, st := .sm, pinQ := s.input.pin }))
    ∧ ∀ s : State, s.cfg.wf = true → s.input.rst = false → s.regs.pinQ = false → s.input.pin = true →
        s.regs.st = .sm →
        step s = .next (s.commit { s.regs with tmr := 0, pinQ := true })

/-- Rule R79: SS_ACCEPT confirms a start mark. It is selected exactly when a mark that began in AWAIT_START_MARK ends with
a duration strictly above `THR_LONG`: a duration of `THR_LONG` is not accepted, one tick more is. -/
def Obligations.LongEnoughMarkStartsFrame : Prop :=
  (∀ w : DispatchWord, w &&& 0x1BC#9 = 0x08C#9 ↔ ∃ m b d, decode w = .ssAccept m b d)
    ∧ (∀ (m b d : Bool) (s : State), exec (.ssAccept m b d) s = .next (s.commit { s.regs with
        rx := true, acc := 0, cnt := 0, tmr := 0, st := .bm, pinQ := s.input.pin }))
    ∧ (∀ s : State, (∃ m b d, s.fetch = .ssAccept m b d) ↔
        s.input.rst = false ∧ s.regs.pinQ = false ∧ s.input.pin = true ∧ s.regs.st = .ss
          ∧ s.regs.duration.toNat > s.cfg.thrLong)
    ∧ ∀ s : State, s.cfg.wf = true → s.input.rst = false → s.regs.pinQ = false → s.input.pin = true →
        s.regs.st = .ss → s.regs.duration.toNat > s.cfg.thrLong →
        step s = .next (s.commit { s.regs with rx := true, acc := 0, cnt := 0, tmr := 0, st := .bm, pinQ := true })

/-- Rule R80: SS_RESYNC drops a start mark silently. It is selected exactly when the mark's duration is at most `THR_LONG`;
a receiving indicator that is lit stays lit over any number of steps from there on, as long as none is a WDT_FIRE or a
RESET. -/
def Obligations.ShortStartMarkResynchronises : Prop :=
  (∀ w : DispatchWord, w &&& 0x1BC#9 = 0x088#9 ↔ ∃ m b d, decode w = .ssResync m b d)
    ∧ (∀ (m b d : Bool) (s : State), exec (.ssResync m b d) s =
        .next (s.commit { s.regs with tmr := 0, st := .sm, pinQ := s.input.pin }))
    ∧ (∀ s : State, (∃ m b d, s.fetch = .ssResync m b d) ↔
        s.input.rst = false ∧ s.regs.pinQ = false ∧ s.input.pin = true ∧ s.regs.st = .ss
          ∧ s.regs.duration.toNat ≤ s.cfg.thrLong)
    ∧ (∀ s : State, s.cfg.wf = true → s.input.rst = false → s.regs.pinQ = false → s.input.pin = true →
        s.regs.st = .ss → s.regs.duration.toNat ≤ s.cfg.thrLong →
        step s = .next (s.commit { s.regs with tmr := 0, st := .sm, pinQ := true }))
    ∧ ∀ (n : Nat) (s t : State), (∃ m b d, s.fetch = .ssResync m b d) → s.regs.rx = true → runFor n s = .next t →
        (∀ k < n, ∀ u, runFor k s = .next u → u.input.rst = false ∧ ¬ ∃ v x a b d, u.fetch = .wdtFire v x a b d) →
        t.regs.rx = true

/-- Rules R81, R83 and R88: the wrong-polarity operations set `fault`, reset the count and return to AWAIT_START_MARK,
and change nothing else; at the event level they are what the wrong polarity selects, whatever the duration. -/
def Obligations.WrongPolarityIsAViolation : Prop :=
  (∀ w : DispatchWord, (w &&& 0x1B8#9 = 0x0A8#9 ↔ ∃ m a b d, decode w = .ssViol m a b d)
      ∧ (w &&& 0x1B8#9 = 0x090#9 ↔ ∃ m a b d, decode w = .bmViol m a b d)
      ∧ (w &&& 0x1B8#9 = 0x0B8#9 ↔ ∃ m a b d, decode w = .bsViol m a b d))
    ∧ (∀ (m a b d : Bool) (s : State),
        exec (.ssViol m a b d) s =
            .next (s.commit { s.regs with fault := true, tmr := 0, st := .sm, pinQ := s.input.pin })
          ∧ exec (.bmViol m a b d) s =
            .next (s.commit { s.regs with fault := true, tmr := 0, st := .sm, pinQ := s.input.pin })
          ∧ exec (.bsViol m a b d) s =
            .next (s.commit { s.regs with fault := true, tmr := 0, st := .sm, pinQ := s.input.pin }))
    ∧ ∀ (c : Config) (r : Regs c) (d : BitVec c.wTmr),
        (r.st = .ss ∨ r.st = .bs → r.edgeOp true d = { r with fault := true, tmr := 0, st := .sm })
          ∧ (r.st = .bm → r.edgeOp false d = { r with fault := true, tmr := 0, st := .sm })

/-- Rule R82: BM_MARK_BEGIN resets the count and awaits the bit's space, whatever the length of the space that ended. -/
def Obligations.AssertedEdgeBeginsBitMark : Prop :=
  (∀ w : DispatchWord, w &&& 0x1B8#9 = 0x0B0#9 ↔ ∃ m a b d, decode w = .bmMarkBegin m a b d)
    ∧ (∀ (m a b d : Bool) (s : State), exec (.bmMarkBegin m a b d) s =
        .next (s.commit { s.regs with tmr := 0, st := .bs, pinQ := s.input.pin }))
    ∧ ∀ s : State, s.cfg.wf = true → s.input.rst = false → s.regs.pinQ = true → s.input.pin = false →
        s.regs.st = .bm →
        step s = .next (s.commit { s.regs with tmr := 0, st := .bs, pinQ := false })

/-- Rules R84 to R86: BS_BIT0 and BS_BIT1 shift in 0 and 1, count the bit, and on the bit that makes the count `NBITS`
publish the new accumulator in the same step and return to AWAIT_START_MARK; a mark of at most `THR_SHORT` is a 0, one
above it and below `THR_LONG` a 1. -/
def Obligations.MarkLengthShiftsInABit : Prop :=
  (∀ w : DispatchWord, (w &&& 0x1BB#9 = 0x098#9 ↔ ∃ m a, decode w = .bsBit0 m a)
      ∧ (w &&& 0x1BB#9 = 0x099#9 ↔ ∃ m a, decode w = .bsBit1 m a))
    ∧ (∀ (b m a : Bool) (s : State) (acc' : BitVec s.cfg.wAcc) (cnt' : BitVec s.cfg.wCnt),
        acc'.toNat = (2 * s.regs.acc.toNat + b.toNat) % 2 ^ s.cfg.wAcc →
        cnt'.toNat = (s.regs.cnt.toNat + 1) % 2 ^ s.cfg.wCnt →
        exec (if b then .bsBit1 m a else .bsBit0 m a) s =
          .next (s.commit (if cnt'.toNat = s.cfg.nbits then
              { s.regs with acc := acc', cnt := cnt', code := acc', tmr := 0, st := .sm, pinQ := s.input.pin }
            else { s.regs with acc := acc', cnt := cnt', tmr := 0, st := .bm, pinQ := s.input.pin })))
    ∧ ∀ s : State, s.cfg.wf = true → s.input.rst = false → s.regs.pinQ = false → s.input.pin = true →
        s.regs.st = .bs →
        (s.regs.duration.toNat ≤ s.cfg.thrShort → step s = .next (s.commit (s.sampled.shiftIn false)))
          ∧ (s.cfg.thrShort < s.regs.duration.toNat → s.regs.duration.toNat < s.cfg.thrLong →
              step s = .next (s.commit (s.sampled.shiftIn true)))

/-- Rule R87: BS_LONG: a mark of at least `THR_LONG` inside a frame sets `fault`, shifts no bit in and publishes nothing,
not even as the last bit. It is selected by exactly those marks: one tick less, where that is above `THR_SHORT`, is a
1 bit. -/
def Obligations.OverLongMarkAbandonsFrame : Prop :=
  (∀ w : DispatchWord, w &&& 0x1BA#9 = 0x09A#9 ↔ ∃ m a d, decode w = .bsLong m a d)
    ∧ (∀ (m a d : Bool) (s : State), exec (.bsLong m a d) s =
        .next (s.commit { s.regs with fault := true, tmr := 0, st := .sm, pinQ := s.input.pin }))
    ∧ (∀ s : State, (∃ m a d, s.fetch = .bsLong m a d) ↔
        s.input.rst = false ∧ s.regs.pinQ = false ∧ s.input.pin = true ∧ s.regs.st = .bs
          ∧ s.regs.duration.toNat ≥ s.cfg.thrLong)
    ∧ (∀ s : State, s.input.rst = false → s.regs.pinQ = false → s.input.pin = true → s.regs.st = .bs →
        s.cfg.thrShort < s.regs.duration.toNat → s.regs.duration.toNat + 1 = s.cfg.thrLong →
        ∃ m a, s.fetch = .bsBit1 m a)
    ∧ ∀ s : State, s.cfg.wf = true → s.input.rst = false → s.regs.pinQ = false → s.input.pin = true →
        s.regs.st = .bs → s.regs.duration.toNat ≥ s.cfg.thrLong →
        step s = .next (s.commit { s.regs with fault := true, tmr := 0, st := .sm, pinQ := true })

/-- Rule R76: every edge operation leaves the count at 0, and none but SM_MARK_BEGIN changes `run`. -/
def Obligations.EdgeOperationsResetTheTimer : Prop :=
  ∀ (i : Instr) (s : State), i.isEdgeOp = true → ∃ t, exec i s = .next t ∧ t.regs.tmr.toNat = 0
    ∧ (t.regs.run = s.regs.run ∨ ((∃ m a b d, i = .smMarkBegin m a b d) ∧ t.regs.run = true))

/-- Rule R106: the effect of each operation that raises an `fsmError`, and nothing more. -/
def Obligations.FsmErrorEffect : Prop :=
  ∀ (i : Instr) (k : ErrorKind) (s : State), i.errorKind = some k →
    exec i s = .next (s.commit { s.regs with
      st := .sm
      tmr := 0
      fault := s.regs.fault || decide (k = .violation ∨ k = .longMark)
      pinQ := s.input.pin })

/-- Rule R25: which operation may write which register, and to what where the rule's table gives a constant; the
configuration is never written. The values are compared as numbers. -/
def Obligations.OwnershipOfRegisters : Prop :=
  ∀ (i : Instr) (s t : State), exec i s = .next t →
    t.cfg = s.cfg
      ∧ ((∃ v x a b d, i = .idle v x a b d) → t.regs.st = s.regs.st)
      ∧ (t.regs.acc.toNat ≠ s.regs.acc.toNat ∨ t.regs.cnt.toNat ≠ s.regs.cnt.toNat →
          (∃ e m v x a b d, i = .reset e m v x a b d) ∨ (∃ m b d, i = .ssAccept m b d) ∨ (∃ m a, i = .bsBit0 m a)
            ∨ ∃ m a, i = .bsBit1 m a)
      ∧ (t.regs.code.toNat ≠ s.regs.code.toNat →
          (((∃ e m v x a b d, i = .reset e m v x a b d) ∨ ∃ v x a b d, i = .wdtFire v x a b d)
              ∧ t.regs.code.toNat = 0)
            ∨ (((∃ m a, i = .bsBit0 m a) ∨ ∃ m a, i = .bsBit1 m a)
              ∧ t.regs.cnt.toNat = s.cfg.nbits ∧ t.regs.code.toNat = t.regs.acc.toNat))
      ∧ (t.regs.rx ≠ s.regs.rx →
          ((∃ m b d, i = .ssAccept m b d) ∧ t.regs.rx = true)
            ∨ (((∃ v x a b d, i = .wdtFire v x a b d) ∨ ∃ e m v x a b d, i = .reset e m v x a b d)
              ∧ t.regs.rx = false))
      ∧ (t.regs.fault ≠ s.regs.fault →
          (((∃ m a b d, i = .ssViol m a b d) ∨ (∃ m a b d, i = .bmViol m a b d) ∨ (∃ m a b d, i = .bsViol m a b d)
              ∨ ∃ m a d, i = .bsLong m a d) ∧ t.regs.fault = true)
            ∨ ((∃ e m v x a b d, i = .reset e m v x a b d) ∧ t.regs.fault = false))
      ∧ (t.regs.run ≠ s.regs.run →
          (((∃ m a b d, i = .smMarkBegin m a b d) ∨ ∃ e m v x a b d, i = .reset e m v x a b d) ∧ t.regs.run = true)
            ∨ ((∃ v x a b d, i = .wdtFire v x a b d) ∧ t.regs.run = false))
      ∧ (i.isEdgeOp = true ∨ (∃ e m v x a b d, i = .reset e m v x a b d) → t.regs.tmr.toNat = 0)
      ∧ ((∃ v x a b d, i = .idle v x a b d) ∨ (∃ v x a b d, i = .wdtFire v x a b d) →
          t.regs.tmr.toNat = s.regs.duration.toNat)
      ∧ t.regs.pinQ = s.input.pin

/-! ### Indicators and ports -/

/-- spec/10_state.md section 2 (rule R16) and spec/60_exceptions.md section 8: the fault indicator after a step is lit
exactly when it was lit or the step raised VIOLATION or LONG_MARK, and the step was no RESET. -/
def Obligations.FaultIsLatchedUntilReset : Prop :=
  ∀ s : State, s.cfg.wf = true → ∃ t, step s = .next t
    ∧ (t.regs.ledFaultN = false ↔
        s.input.rst = false
          ∧ (s.regs.ledFaultN = false ∨ s.fetch.errorKind = some .violation ∨ s.fetch.errorKind = some .longMark))

/-- spec/10_state.md section 2 (rule R15) and section 6 (rule R24 item 7): the receiving indicator is lit after a step
exactly when the step was an SS_ACCEPT, or it was lit and the step was neither a WDT_FIRE nor a RESET. -/
def Obligations.ReceivingIndicatorFollowsStartMarkAndWatchdog : Prop :=
  ∀ s : State, s.cfg.wf = true → ∃ t, step s = .next t
    ∧ (t.regs.ledRxN = false ↔
        (∃ m b d, s.fetch = .ssAccept m b d)
          ∨ (s.regs.ledRxN = false ∧ s.input.rst = false ∧ ¬ ∃ v x a b d, s.fetch = .wdtFire v x a b d))

/-- spec/10_state.md section 4 (rule R21): the output ports are functions of the registers; `code[15:0]` is the zero
extension of the code register (`zext_16` of rule R100), which it shows whole when that register has at most sixteen
bits; the indicators are driven active-low. That the sixteen wires show the low bits of a wider register is the model's
inference (log entry 7). -/
def Obligations.PortsShowTheRegisters : Prop :=
  ∀ (c : Config) (r : Regs c),
    r.ports = ⟨BitVec.setWidth 16 r.code, !r.rx, !r.fault⟩ ∧ r.ports.code = r.getCode
      ∧ (c.wAcc ≤ 16 → r.getCode.toNat = r.code.toNat)

/-- spec/43_code_read.md (rules R101 and R102, derived there): over any number of steps none of which is a RESET, a
WDT_FIRE or the completion of a frame, GETCODE returns the same value. -/
def Obligations.CodePortIsStableBetweenWrites : Prop :=
  ∀ (n : Nat) (s t : State), runFor n s = .next t →
    (∀ k < n, ∀ u, runFor k s = .next u → u.writesCode = false) → t.regs.getCode = s.regs.getCode

/-! ### Invariants of the reachable states -/

/-- spec/10_state.md section 6 (rule R24, derived there): the reset state, and what a RESET step leaves for either level
of the pin, satisfies the invariant. -/
def Obligations.ResetSatisfiesTheInvariant : Prop :=
  State.reset.Inv ∧ ∀ (c : Config) (p : Bool), c.wf = true → (resetRegs c p).Inv

/-- spec/10_state.md section 6 (rule R24, derived there): every step from a state that satisfies the invariant answers a
next state, which satisfies it. -/
def Obligations.EveryStepKeepsTheInvariant : Prop :=
  ∀ s : State, s.Inv → ∃ t, step s = .next t ∧ t.Inv

/-- A stopped timer means a cleared code and a dark receiving indicator: true after RESET and kept by every step
(follows from spec/42_watchdog.md section 1 and spec/41_fsm_edge_ops.md section 2). -/
def Obligations.StoppedTimerMeansReleased : Prop :=
  State.reset.regs.ReleasedWhenStopped
    ∧ ∀ s t : State, s.Inv → s.regs.ReleasedWhenStopped → step s = .next t → t.regs.ReleasedWhenStopped

/-- spec/30_encoding.md section 4 (rule R51, derived there): in a state that satisfies the invariant no input selects
SS_VIOL, BM_VIOL or BS_VIOL. -/
def Obligations.WrongPolarityIsUnreachableThroughThePin : Prop :=
  ∀ s : State, s.Inv → s.fetch.errorKind ≠ some .violation

/-- spec/41_fsm_edge_ops.md section 6 and spec/40_frontend_timer.md section 3 (rules R89 and R65, derived there): where
the invariant holds nothing wraps: the running count advances by one, and a shift loses no bit. -/
def Obligations.NothingWrapsWhereTheInvariantHolds : Prop :=
  ∀ (c : Config) (r : Regs c), c.wf = true → r.Inv →
    (r.run = true → r.duration.toNat = r.tmr.toNat + 1 ∧ r.duration.toNat ≤ c.wdtTicks)
      ∧ (r.st = .bs → ∀ b : Bool, (shiftedAcc r.acc b).toNat = 2 * r.acc.toNat + b.toNat
          ∧ (countedBit r.cnt).toNat = r.cnt.toNat + 1)

/-- spec/10_state.md section 2 (rule R14, derived there): where the invariant holds the value GETCODE returns is below
`2^NBITS`, so with at most fifteen bits a frame the port's bit 15 is 0. -/
def Obligations.CodePortBitFifteenIsZero : Prop :=
  ∀ s : State, s.Inv → s.cfg.wAcc ≤ 16 →
    s.regs.getCode.toNat < 2 ^ s.cfg.nbits ∧ (s.cfg.nbits ≤ 15 → s.regs.getCode[15] = false)

/-- spec/93_implementation_defined.md U7 and U8: what the outside sees never depends on `acc` and `cnt` outside BM and
BS, nor on the count of a stopped timer: two states that differ in nothing else show the same ports after any number of
steps under the same inputs. -/
def Obligations.ScratchStateIsNeverVisible : Prop :=
  ∀ (n : Nat) (s : State) (q : Regs s.cfg), s.Inv → q.Inv → s.regs.SameOutside q →
    ∃ (s' : State) (q' : Regs s'.cfg), runFor n s = .next s' ∧ runFor n { s with regs := q } = .next { s' with regs := q' }
      ∧ s'.regs.ports = q'.ports ∧ s'.regs.SameOutside q'

/-! ### Runs -/

/-- spec/60_exceptions.md section 9 and spec/42_watchdog.md section 1: with the timer stopped and the pin steady, any
number of steps change no register. -/
def Obligations.StoppedBlockStaysAsItIs : Prop :=
  ∀ (n : Nat) (s : State) (rest : List Input), s.cfg.wf = true → s.regs.run = false →
    s.stim = List.replicate n ⟨false, s.regs.pinQ⟩ ++ rest →
    runFor n s = .next { s with stim := rest, clock := s.clock + n }

/-- spec/40_frontend_timer.md section 6 (rule R70, derived there): after an edge that leaves the timer running, when the
pin holds its level for `n` samples in all (`n` at most `WDT_TICKS`) and then changes, the steps between are IDLE and the
duration operand at the change is exactly `n`. -/
def Obligations.DurationEqualsRunLength : Prop :=
  ∀ (n : Nat) (s : State) (rest : List Input), s.cfg.wf = true → s.regs.run = true → s.regs.tmr.toNat = 0 →
    1 ≤ n → n ≤ s.cfg.wdtTicks →
    s.stim = List.replicate (n - 1) ⟨false, s.regs.pinQ⟩ ++ ⟨false, !s.regs.pinQ⟩ :: rest →
    ∃ t : State, runFor (n - 1) s = .next t
      ∧ t = { s with
          regs := { s.regs with tmr := BitVec.ofNat s.cfg.wTmr (n - 1) }
          stim := ⟨false, !s.regs.pinQ⟩ :: rest
          clock := s.clock + (n - 1) }
      ∧ t.fetch.isEdgeOp = true ∧ t.regs.duration.toNat = n

/-- spec/42_watchdog.md section 2 (rules R96 and R98): with the timer running and no edge, the watchdog fires in the
step in which the count reaches `WDT_TICKS` and in none before; until then no register but the count changes. -/
def Obligations.WatchdogFiresAtTheWindow : Prop :=
  ∀ (s : State) (rest : List Input), s.cfg.wf = true → s.regs.run = true → s.regs.tmr.toNat < s.cfg.wdtTicks →
    s.stim = List.replicate (s.cfg.wdtTicks - s.regs.tmr.toNat) ⟨false, s.regs.pinQ⟩ ++ rest →
    (∀ k < s.cfg.wdtTicks - s.regs.tmr.toNat, s.regs.tmr.toNat + k < 2 ^ s.cfg.wTmr ∧ runFor k s = .next
          { s with
            regs := { s.regs with tmr := BitVec.ofNat s.cfg.wTmr (s.regs.tmr.toNat + k) }
            stim := List.replicate (s.cfg.wdtTicks - s.regs.tmr.toNat - k) ⟨false, s.regs.pinQ⟩ ++ rest
            clock := s.clock + k })
      ∧ runFor (s.cfg.wdtTicks - s.regs.tmr.toNat) s = .next
          { s with
            regs := { s.regs with
              rx := false, code := 0, run := false, st := .sm, tmr := BitVec.ofNat s.cfg.wTmr s.cfg.wdtTicks }
            stim := rest
            clock := s.clock + (s.cfg.wdtTicks - s.regs.tmr.toNat) }

/-- spec/60_exceptions.md section 4 (rule R117, derived there): from every state that satisfies the invariant, `WDT_TICKS`
steps without an edge lead to AWAIT_START_MARK with the timer stopped and `fault` as it was; and what the reader sees is
cleared, where in addition a stopped timer meant released at the start (`ReleasedWhenStopped`, which every step keeps by
`StoppedTimerMeansReleased`). -/
def Obligations.SilenceReturnsToTheStart : Prop :=
  ∀ (s : State) (rest : List Input), s.Inv →
    s.stim = List.replicate s.cfg.wdtTicks ⟨false, s.regs.pinQ⟩ ++ rest →
    ∃ t : State, runFor s.cfg.wdtTicks s = .next t ∧ t.regs.st = .sm ∧ t.regs.run = false
      ∧ t.regs.ledFaultN = s.regs.ledFaultN ∧ t.stim = rest
      ∧ (s.regs.ReleasedWhenStopped → t.regs.getCode = 0 ∧ t.regs.ledRxN = true)

/-- spec/70_reset_and_hazards.md section 3 (rule R128): there is no filter: a level sampled for one step in
AWAIT_BIT_MARK is taken as the mark of a 0 bit. -/
def Obligations.OneStepGlitchIsAZeroBit : Prop :=
  ∀ (s : State) (rest : List Input), s.Inv → s.regs.st = .bm →
    s.stim = ⟨false, false⟩ :: ⟨false, true⟩ :: rest →
    runFor 2 s = .next
      { s with
        regs := ({ s.regs with tmr := 0 } : Regs s.cfg).shiftIn false
        stim := rest
        clock := s.clock + 2 }

/-- spec/95_test_vectors.md section 1.3 (the source's Scenario C; spec/60_exceptions.md section 1): a start mark of at
most `THR_LONG` ticks leaves no trace but a running timer at 0. -/
def Obligations.ShortStartMarkLeavesNoTrace : Prop :=
  ∀ (d : Nat) (s : State) (rest : List Input), s.cfg.wf = true → s.regs.st = .sm → s.regs.pinQ = true →
    1 ≤ d → d ≤ s.cfg.thrLong → s.stim = stimInputs [.low d] ++ ⟨false, true⟩ :: rest →
    runFor (d + 1) s = .next
      { s with regs := { s.regs with tmr := 0, run := true }, stim := rest, clock := s.clock + (d + 1) }

/-- spec/41_fsm_edge_ops.md section 8 (rule R92, derived there) and spec/20_memory.md section 2: from AWAIT_START_MARK, a
start mark longer than `THR_LONG`, then `NBITS` bits each of any space and a mark shorter than `THR_LONG`, no gap above
`WDT_TICKS`: in the step of the last deasserted edge the code register takes the bits' value, first bit most significant,
a bit being 1 exactly when its mark is longer than `THR_SHORT`. -/
def Obligations.TimedFrameIsDecoded : Prop :=
  ∀ (startMark : Nat) (bits : List (Nat × Nat)) (s : State) (rest : List Input),
    s.cfg.wf = true → s.regs.st = .sm → s.regs.pinQ = true →
    s.cfg.thrLong < startMark → startMark ≤ s.cfg.wdtTicks → bits.length = s.cfg.nbits →
    (∀ b ∈ bits, 1 ≤ b.1 ∧ b.1 ≤ s.cfg.wdtTicks ∧ 1 ≤ b.2 ∧ b.2 < s.cfg.thrLong) →
    s.stim = stimInputs (timedFrame startMark bits) ++ ⟨false, true⟩ :: rest →
    runFor ((stimInputs (timedFrame startMark bits)).length + 1) s = .next
      { s with
        regs :=
          { st := .sm
            acc := BitVec.ofNat _ (msbFirst (bits.map fun b => decide (s.cfg.thrShort < b.2)))
            cnt := BitVec.ofNat _ s.cfg.nbits
            code := BitVec.ofNat _ (msbFirst (bits.map fun b => decide (s.cfg.thrShort < b.2)))
            rx := true
            fault := s.regs.fault
            tmr := 0
            run := true
            pinQ := true }
        stim := rest
        clock := s.clock + ((stimInputs (timedFrame startMark bits)).length + 1) }

/-- spec/95_test_vectors.md section 1.5 (the source's first property): at the reference configuration, from any registers,
`RST; FRAME(b1 ... b15); H 1` ends with GETCODE returning the bits' value, no fault and the receiving indicator lit. -/
def Obligations.NominalFrameAfterResetIsRead : Prop :=
  ∀ (bits : List Bool) (s : State) (rest : List Input), s.cfg = Config.reference → bits.length = 15 →
    s.stim = stimInputs (.rst :: frameItems Config.reference bits ++ [.high 1]) ++ rest →
    ∃ t : State, runFor (stimInputs (.rst :: frameItems Config.reference bits ++ [.high 1])).length s = .next t
      ∧ t.regs.ports = ⟨BitVec.ofNat 16 (msbFirst bits), false, true⟩
      ∧ t.regs.st = .sm ∧ t.regs.cnt.toNat = 15 ∧ t.regs.tmr.toNat = 0 ∧ t.regs.run = true ∧ t.stim = rest

/-- spec/20_memory.md section 2 (rule R32): the first bit received is the most significant: of `n` bits, bit `k` in order
of arrival is bit `n - 1 - k` of the value, and the value has no higher bit. -/
def Obligations.FirstBitIsMostSignificant : Prop :=
  ∀ bits : List Bool, msbFirst bits < 2 ^ bits.length
    ∧ ∀ (k : Nat) (h : k < bits.length), (msbFirst bits).testBit (bits.length - 1 - k) = bits[k]

/-- spec/30_encoding.md section 6 and spec/70_reset_and_hazards.md section 4 (rule R133, derived there): how many steps
`FRAME` stands for, and its bounds at the reference parameters. -/
def Obligations.NominalFrameLength : Prop :=
  (∀ (c : Config) (bits : List Bool), (stimInputs (frameItems c bits)).length =
      c.tStart + bits.length * c.tShort + bits.count true * c.tLong + bits.count false * c.tShort)
    ∧ ∀ bits : List Bool, bits.length = 15 →
        40800 ≤ (stimInputs (frameItems Config.reference bits)).length
          ∧ (stimInputs (frameItems Config.reference bits)).length ≤ 58800

/-- spec/95_test_vectors.md section 1.7 (the source's third property): at the event level, every edge of the wrong
polarity in a state other than AWAIT_START_MARK returns to it, sets `fault` and leaves the code register alone. -/
def Obligations.EventLevelWrongPolarityKeepsCode : Prop :=
  ∀ (c : Config) (r : Regs c) (d : Nat),
    (r.st = .ss ∨ r.st = .bs →
        (r.event (.asserted d)).st = .sm ∧ (r.event (.asserted d)).fault = true
          ∧ (r.event (.asserted d)).ports.code = r.ports.code ∧ (r.event (.asserted d)).pinQ = r.pinQ)
      ∧ (r.st = .bm →
        (r.event (.deasserted d)).st = .sm ∧ (r.event (.deasserted d)).fault = true
          ∧ (r.event (.deasserted d)).ports.code = r.ports.code ∧ (r.event (.deasserted d)).pinQ = r.pinQ)
end

