-- ==== Sys2Proof/Tests/Slice0.lean ====
section
/-! SUPPORT. Tests: the smoke tests of the well-formedness checks, words written out from the patterns of
spec/30_encoding.md rule R49, single steps with the results of spec/95_test_vectors.md, and a witness for the
hypotheses of every statement that has some. -/
namespace Sys2Proof.Tests

open Sys2Proof Machine

/-! ### Well-formedness: each check refuses an ill-formed term -/

theorem test_reference_wf : Config.reference.wf = true := by decide
theorem test_wf_zero_thrShort : { Config.reference with thrShort := 0 }.wf = false := by decide
theorem test_wf_thresholds_equal : { Config.reference with thrShort := 3600 }.wf = false := by decide
theorem test_wf_window_at_thrLong : { Config.reference with wdtTicks := 3600 }.wf = false := by decide
theorem test_wf_window_too_wide : { Config.reference with wdtTicks := 65536 }.wf = false := by decide
theorem test_wf_no_bits : { Config.reference with nbits := 0 }.wf = false := by decide
theorem test_wf_count_too_narrow : { Config.reference with nbits := 16 }.wf = false := by decide
theorem test_wf_accumulator_too_narrow : { Config.reference with wAcc := 14 }.wf = false := by decide
/-- Rules R127, R5 and R6: 26 ms are 65535 ticks at 2520615 Hz and 65536 at 2520616 Hz, which sixteen bits do not hold and
seventeen do (log entry 15). -/
theorem test_atTickRate_width : (Config.atTickRate 2520615).wf = true ∧ (Config.atTickRate 2520616).wf = false
    ∧ { Config.atTickRate 2520616 with wTmr := 17 }.wf = true := by
  decide
theorem test_classesInhabited_bit1 : { Config.reference with thrShort := 3599 }.classesInhabited = false := by decide
theorem test_classesInhabited_window : { Config.reference with wdtTicks := 3601 }.classesInhabited = false := by decide
theorem test_formable_100 : (decode 0b010001100#9).fields.formable = false := by decide
theorem test_formable_010 : (decode 0b010011010#9).fields.formable = false := by decide
theorem test_formable_match_of_short : (decode 0b001010000#9).fields.formable = false := by decide
theorem test_item_zero_high : (Item.high 0).wf = false := by decide
theorem test_item_zero_low : (Item.low 0).wf = false := by decide
theorem test_stimulus_without_reset : stimulusWf [.high 5, .rst] = false := by decide
theorem test_stimulus_with_reset : stimulusWf [.rstl, .low 99, .high 1] = true := by decide

/-! ### Decoding: words written out from the patterns, one for each operation -/

theorem test_decode_reset : decode 0b110111010#9 = .reset true false true .bs false true false := by decide
theorem test_decode_idle : decode 0b000110001#9 = .idle true .bm false false true := by decide
theorem test_decode_wdtFire : decode 0b001101111#9 = .wdtFire true .ss true true true := by decide
theorem test_decode_smMarkBegin : decode 0b010100001#9 = .smMarkBegin false false false true := by decide
theorem test_decode_smIgnore : decode 0b011000111#9 = .smIgnore true true true true := by decide
theorem test_decode_ssAccept : decode 0b011001101#9 = .ssAccept true false true := by decide
theorem test_decode_ssResync : decode 0b010001001#9 = .ssResync false false true := by decide
theorem test_decode_ssViol : decode 0b010101100#9 = .ssViol false true false false := by decide
theorem test_decode_bmMarkBegin : decode 0b011110010#9 = .bmMarkBegin true false true false := by decide
theorem test_decode_bmViol : decode 0b010010001#9 = .bmViol false false false true := by decide
theorem test_decode_bsBit0 : decode 0b010011100#9 = .bsBit0 false true := by decide
theorem test_decode_bsBit1 : decode 0b011011001#9 = .bsBit1 true false := by decide
theorem test_decode_bsLong : decode 0b010011110#9 = .bsLong false true false := by decide
theorem test_decode_bsViol : decode 0b010111011#9 = .bsViol false false true true := by decide
theorem test_decode_too_wide : decodeTableWord 16 0x200 = none := by decide

/-! ### Single steps at the reference parameters, from spec/95_test_vectors.md -/

/-- A state written as the vectors write one, with the inputs of one step. -/
def stateOf (st : DecoderState) (acc cnt code : Nat) (rx fault : Bool) (tmr : Nat) (run pinQ rst pin : Bool) : State where
  cfg := Config.reference
  regs :=
    { st, acc := BitVec.ofNat _ acc, cnt := BitVec.ofNat _ cnt, code := BitVec.ofNat _ code, rx, fault
      tmr := BitVec.ofNat _ tmr, run, pinQ }
  stim := [⟨rst, pin⟩]
  clock := 0

/-- The registers in the order of the vectors, as numbers. -/
structure View where
  st : DecoderState
  acc : Nat
  cnt : Nat
  code : Nat
  rx : Bool
  fault : Bool
  tmr : Nat
  run : Bool
  pinQ : Bool
deriving DecidableEq, Repr

def view {c : Config} (r : Regs c) : View :=
  ⟨r.st, r.acc.toNat, r.cnt.toNat, r.code.toNat, r.rx, r.fault, r.tmr.toNat, r.run, r.pinQ⟩

/-- The registers an outcome leaves. -/
def viewOf : Host.Outcome State Fault Refusal → Option View
  | .next t => some (view t.regs)
  | .fault _ => none
  | .refused _ => none

/-- Section 2.7. -/
theorem test_reset_erases : viewOf (step (stateOf .bs 0xFFFF 9 0xABCD true true 777 false false true false)) =
    some ⟨.sm, 0, 0, 0, false, false, 0, true, false⟩ := by decide

/-- F1. -/
theorem test_idle_ticks : viewOf (step (stateOf .sm 0 0 0 false false 99 true true false true)) =
    some ⟨.sm, 0, 0, 0, false, false, 100, true, true⟩ := by decide

/-- F10, an unreachable state: the count wraps. -/
theorem test_idle_wraps : viewOf (step (stateOf .sm 0 0 0 false false 65535 true true false true)) =
    some ⟨.sm, 0, 0, 0, false, false, 0, true, true⟩ := by decide

/-- Section 2.5, the example of rule R95. -/
theorem test_wdtFire : viewOf (step (stateOf .bm 0 6 0x1234 true false 51999 true true false true)) =
    some ⟨.sm, 0, 6, 0, false, false, 52000, false, true⟩ := by decide

/-- F2: a stopped timer holds and never matches. -/
theorem test_wdt_never_when_stopped : viewOf (step (stateOf .sm 0 0 0 false false 52000 false true false true)) =
    some ⟨.sm, 0, 0, 0, false, false, 52000, false, true⟩ := by decide

/-- F6: the edge beats the compare match. -/
theorem test_smMarkBegin_tie : viewOf (step (stateOf .sm 0 0 0 false false 51999 true true false false)) =
    some ⟨.ss, 0, 0, 0, false, false, 0, true, false⟩ := by decide

/-- F7: a stopped timer is started again. -/
theorem test_smMarkBegin_restarts : viewOf (step (stateOf .sm 0 0 0 false false 52000 false true false false)) =
    some ⟨.ss, 0, 0, 0, false, false, 0, true, false⟩ := by decide

/-- E4 through the pin. -/
theorem test_smIgnore_stopped : viewOf (step (stateOf .sm 0 0 0 false false 52000 false false false true)) =
    some ⟨.sm, 0, 0, 0, false, false, 0, false, true⟩ := by decide

/-- E5 and section 2.3: 3601 ticks are a start mark. -/
theorem test_ssAccept_3601 : viewOf (step (stateOf .ss 0x123 7 0x42 true false 3600 true false false true)) =
    some ⟨.bm, 0, 0, 0x42, true, false, 0, true, true⟩ := by decide

/-- E6: 3600 ticks are not. -/
theorem test_ssResync_3600 : viewOf (step (stateOf .ss 0 0 0 false false 3599 true false false true)) =
    some ⟨.sm, 0, 0, 0, false, false, 0, true, true⟩ := by decide

/-- E8 at the level of the event interface (the pin cannot make this edge). -/
theorem test_ssViol : viewOf (exec (.ssViol false false false false)
    (stateOf .ss 0x123 7 0x42 true false 499 true true false false)) =
    some ⟨.sm, 0x123, 7, 0x42, true, true, 0, true, false⟩ := by decide

/-- F8. -/
theorem test_bmMarkBegin : viewOf (step (stateOf .bm 0 0 0 true false 40 true true false false)) =
    some ⟨.bs, 0, 0, 0, true, false, 0, true, false⟩ := by decide

/-- E11. -/
theorem test_bmViol : viewOf (exec (.bmViol false false false false)
    (stateOf .bm 0x123 7 0x42 true false 699 true false false true)) =
    some ⟨.sm, 0x123, 7, 0x42, true, true, 0, true, true⟩ := by decide

/-- Section 2.3: 1800 ticks are a 0. -/
theorem test_bsBit0_1800 : viewOf (step (stateOf .bs 5 3 0 true false 1799 true false false true)) =
    some ⟨.bm, 10, 4, 0, true, false, 0, true, true⟩ := by decide

/-- E14: the fifteenth bit publishes. -/
theorem test_bsBit0_publishes : viewOf (step (stateOf .bs 0x2D2D 14 0x42 true false 1199 true false false true)) =
    some ⟨.sm, 0x5A5A, 15, 0x5A5A, true, false, 0, true, true⟩ := by decide

/-- Section 2.3: 1801 ticks are a 1. -/
theorem test_bsBit1_1801 : viewOf (step (stateOf .bs 5 3 0 true false 1800 true false false true)) =
    some ⟨.bm, 11, 4, 0, true, false, 0, true, true⟩ := by decide

/-- Section 2.3: 3599 ticks are a 1; E15: the largest code. -/
theorem test_bsBit1_3599 : viewOf (step (stateOf .bs 0x3FFF 14 0 true false 3598 true false false true)) =
    some ⟨.sm, 0x7FFF, 15, 0x7FFF, true, false, 0, true, true⟩ := by decide

/-- E18: an over-long fifteenth mark publishes nothing. -/
theorem test_bsLong_3600 : viewOf (step (stateOf .bs 0x3FFF 14 0 true false 3599 true false false true)) =
    some ⟨.sm, 0x3FFF, 14, 0, true, true, 0, true, true⟩ := by decide

/-- E19. -/
theorem test_bsViol : viewOf (exec (.bsViol false false false true)
    (stateOf .bs 0x123 7 0x42 true false 899 true true false false)) =
    some ⟨.sm, 0x123, 7, 0x42, true, true, 0, true, false⟩ := by decide

/-- E21, an unreachable state: the count wraps without publishing. -/
theorem test_shiftIn_count_wraps :
    view ((stateOf .bs 5 15 0x42 true false 0 true false false true).regs.event (.deasserted 100)) =
      ⟨.bm, 10, 0, 0x42, true, false, 0, true, false⟩ := by decide

/-- P6: the event-level program up to its last error. -/
theorem test_event_program :
    view ((stateOf .sm 0 0 0x42 false false 0 true true false true).regs.events
      [.asserted 9, .deasserted 4800, .asserted 1200, .asserted 1200, .asserted 30, .deasserted 5000, .asserted 1200,
        .deasserted 3600]) =
      ⟨.sm, 0, 0, 0x42, true, true, 0, true, true⟩ := by decide

/-- Section 2.6: the port never shows the partial frame. -/
theorem test_getCode_mid_frame :
    (stateOf .bs 0x155 9 0x42 true false 0 true false false true).regs.ports = ⟨0x42#16, false, true⟩ := by decide

/-- P1, the dispatch words of three of its steps. -/
theorem test_dispatchWord_accept :
    (stateOf .ss 0 0 0 false false 4799 true false false true).dispatchWord = 0x08F#9 := by decide

theorem test_dispatchWord_bit1 :
    (stateOf .bs 0 0 0 true false 2399 true false false true).dispatchWord = 0x099#9 := by decide

theorem test_dispatchWord_fire :
    (stateOf .sm 0 15 0 true false 51999 true true false true).dispatchWord = 0x047#9 := by decide

/-- A refused configuration (rule R6). -/
theorem test_bad_configuration : viewOf (step
    { cfg := { Config.reference with nbits := 0 }, regs := resetRegs _ true, stim := [], clock := 0 }) = none := by
  decide

/-- The host's placement: WDT_FIRE is the first operation after reset. -/
theorem test_placed_wdtFire : viewOf (step (State.reset.withFetchWord 16 0x040)) =
    some ⟨.sm, 0, 0, 0, false, false, 52000, false, true⟩ := by decide

/-- Rule R32 and program P1: the bits of 0x5A5A in order of arrival. -/
theorem test_msbFirst : msbFirst [true, false, true, true, false, true, false, false, true, false, true, true, false,
    true, false] = 0x5A5A := by decide

/-! ### Witnesses: states and operands that meet the hypotheses of the statements -/

/-- A small configuration that rule R6 accepts, for runs. -/
def tiny : Config where
  fTick := 1
  tShort := 2
  tLong := 4
  tStart := 8
  thrShort := 3
  thrLong := 6
  wdtTicks := 12
  nbits := 2
  wTmr := 4
  wAcc := 4
  wCnt := 2

/-- Registers of the small configuration. -/
def tinyRegs (st : DecoderState) (tmr : Nat) (run pinQ : Bool) : Regs tiny :=
  { st, acc := 0, cnt := 0, code := 0, rx := false, fault := false, tmr := BitVec.ofNat _ tmr, run, pinQ }

def tinyState (r : Regs tiny) (stim : List Input) : State :=
  { cfg := tiny, regs := r, stim, clock := 0 }

theorem witness_tiny_wf : tiny.wf = true ∧ tiny.classesInhabited = true := by decide

theorem tinyRegs_inv (st : DecoderState) (tmr : Nat) (run pinQ : Bool)
    (h : (run = false → st = .sm ∧ tmr = 0) ∧ (run = true → tmr < 12)
      ∧ (st = .ss → pinQ = false) ∧ (st = .bm → pinQ = true) ∧ (st = .bs → pinQ = false)) :
    (tinyRegs st tmr run pinQ).Inv := by
  obtain ⟨h0, h1, h2, h3, h4⟩ := h
  constructor <;> simp [tinyRegs, tiny]
  · exact fun hr => (h0 hr).1
  · intro hr
    have := h1 hr
    omega
  · intro hr
    simp [(h0 hr).2]
  · exact h2
  · exact h3
  · exact h4

/-- The selection clauses of the operations, each at a boundary value: the hypotheses of
`LongEnoughMarkStartsFrame`, `ShortStartMarkResynchronises`, `MarkLengthShiftsInABit` (both clauses) and
`OverLongMarkAbandonsFrame` (both: the last and the last but one). -/
theorem witness_measured_marks :
    let hyp (s : State) (st : DecoderState) (d : Nat) : Bool :=
      s.cfg.wf && !s.input.rst && !s.regs.pinQ && s.input.pin && decide (s.regs.st = st)
        && decide (s.regs.duration.toNat = d)
    hyp (stateOf .ss 0 0 0 false false 3600 true false false true) .ss (Config.reference.thrLong + 1) = true
      ∧ hyp (stateOf .ss 0 0 0 false false 3599 true false false true) .ss Config.reference.thrLong = true
      ∧ hyp (stateOf .bs 0 0 0 false false 1799 true false false true) .bs Config.reference.thrShort = true
      ∧ hyp (stateOf .bs 0 0 0 false false 1800 true false false true) .bs (Config.reference.thrShort + 1) = true
      ∧ hyp (stateOf .bs 0 0 0 false false 3598 true false false true) .bs (Config.reference.thrLong - 1) = true
      ∧ hyp (stateOf .bs 0 0 0 false false 3599 true false false true) .bs Config.reference.thrLong = true := by
  decide

/-- The hypotheses of `MarkLengthShiftsInABit` on the new accumulator and count, at the last bit. -/
theorem witness_shifted_values :
    ∃ (s : State) (acc' : BitVec s.cfg.wAcc) (cnt' : BitVec s.cfg.wCnt),
      acc'.toNat = (2 * s.regs.acc.toNat + true.toNat) % 2 ^ s.cfg.wAcc
        ∧ cnt'.toNat = (s.regs.cnt.toNat + 1) % 2 ^ s.cfg.wCnt ∧ cnt'.toNat = s.cfg.nbits :=
  ⟨stateOf .bs 0x3FFF 14 0 true false 0 true false false true, (0x7FFF : BitVec 16), (15 : BitVec 4), by decide⟩

/-- The selection clauses of `AssertedEdgeBeginsStartMark`, `AssertedEdgeBeginsBitMark` and
`DeassertedEdgeInStartIsIgnored`. -/
theorem witness_unmeasured_edges :
    let hyp (s : State) (st : DecoderState) (q : Bool) : Bool :=
      s.cfg.wf && !s.input.rst && decide (s.regs.pinQ = q) && decide (s.input.pin = !q) && decide (s.regs.st = st)
    hyp (stateOf .sm 0 0 0 false false 0 true true false false) .sm true = true
      ∧ hyp (stateOf .bm 0 0 0 false false 0 true true false false) .bm true = true
      ∧ hyp (stateOf .sm 0 0 0 false false 0 true false false true) .sm false = true := by
  decide

/-- The state hypotheses of the event-level clauses of `WrongPolarityIsAViolation` and of
`EventLevelWrongPolarityKeepsCode`. -/
theorem witness_event_states :
    (tinyRegs .ss 0 true false).st = .ss ∧ (tinyRegs .bs 0 true false).st = .bs ∧ (tinyRegs .bm 0 true true).st = .bm := by
  decide

/-- The four clauses of `EventPriority`, which are also the cases of `TimerAdvancesResetsAndStops`, and the selection
clauses of `ResetSetsEveryRegister`, `IdleOnlyTicks` (running and stopped) and `WatchdogClearsCodeAndStopsTimer`. -/
theorem witness_event_priority :
    let matching (s : State) : Bool := s.regs.run && decide (s.regs.duration.toNat = s.cfg.wdtTicks)
    (stateOf .sm 0 0 0 false false 51999 true true true false).input.rst = true
      ∧ (let s : State := stateOf .sm 0 0 0 false false 51999 true true false false;
          s.input.rst = false ∧ s.input.pin ≠ s.regs.pinQ ∧ matching s = true)
      ∧ (let s : State := stateOf .sm 0 0 0 false false 51999 true true false true;
          s.input.rst = false ∧ s.input.pin = s.regs.pinQ ∧ matching s = true)
      ∧ (let s : State := stateOf .sm 0 0 0 false false 51998 true true false true;
          s.input.rst = false ∧ s.input.pin = s.regs.pinQ ∧ s.regs.run = true ∧ matching s = false)
      ∧ (let s : State := stateOf .sm 0 0 0 false false 52000 false true false true;
          s.input.rst = false ∧ s.input.pin = s.regs.pinQ ∧ s.regs.run = false ∧ matching s = false) := by
  decide

/-- The four classes of `DurationOperandAndItsClasses` at their bounds. -/
theorem witness_duration_classes :
    let cls (n : Nat) : Bool × Bool × Bool :=
      let d : BitVec Config.reference.wTmr := BitVec.ofNat _ n
      (gtLong d, geLong d, gtShort d)
    cls 1800 = (false, false, false) ∧ cls 1801 = (false, false, true) ∧ cls 3599 = (false, false, true)
      ∧ cls 3600 = (false, true, true) ∧ cls 3601 = (true, true, true) ∧ cls 52000 = (true, true, true) := by
  decide

/-- Operations that meet the hypotheses of `EdgeOperationsResetTheTimer` and `FsmErrorEffect`, one for each kind. -/
theorem witness_operation_classes :
    (Instr.smIgnore false false false false).isEdgeOp = true
      ∧ (Instr.ssResync false false false).errorKind = some .resync
      ∧ (Instr.bmViol false false false false).errorKind = some .violation
      ∧ (Instr.bsLong false false true).errorKind = some .longMark := by
  decide

/-- A next state, for `OwnershipOfRegisters`. -/
theorem witness_exec_next : ∃ i s t, exec i s = .next t :=
  ⟨.idle false .sm false false false, State.reset, _, rfl⟩

/-- The hypotheses of `PlacedWordIsTheNextOperation`, with a word that a step can form and one that it cannot. -/
theorem witness_placed_word :
    State.reset.cfg.wf = true ∧ State.reset.cfg.classesInhabited = true
      ∧ (decode 0x08F#9).fields.formable = true ∧ (decode 0x08C#9).fields.formable = false := by
  decide

/-- The hypotheses of `NoEdgeAtReleaseOfReset`, for both levels. -/
theorem witness_release_of_reset : ∀ p : Bool, ∃ (s : State) (rest : List Input),
    s.cfg.wf = true ∧ s.stim = ⟨true, p⟩ :: ⟨false, p⟩ :: rest :=
  fun p => ⟨tinyState (tinyRegs .sm 0 true true) [⟨true, p⟩, ⟨false, p⟩], [], witness_tiny_wf.1, rfl⟩

/-- States that satisfy the invariant, one in each decoder state and with the timer stopped (the hypotheses of
`EveryStepKeepsTheInvariant`, `StoppedTimerMeansReleased`, `WrongPolarityIsUnreachableThroughThePin`,
`NothingWrapsWhereTheInvariantHolds` and `CodePortBitFifteenIsZero`). -/
theorem witness_invariant :
    (tinyRegs .sm 0 false true).Inv ∧ (tinyRegs .sm 11 true true).Inv ∧ (tinyRegs .ss 11 true false).Inv
      ∧ (tinyRegs .bm 11 true true).Inv ∧ (tinyRegs .bs 11 true false).Inv ∧ tiny.wf = true ∧ tiny.wAcc ≤ 16
      ∧ tiny.nbits ≤ 15 :=
  ⟨tinyRegs_inv _ _ _ _ (by decide), tinyRegs_inv _ _ _ _ (by decide), tinyRegs_inv _ _ _ _ (by decide),
    tinyRegs_inv _ _ _ _ (by decide), tinyRegs_inv _ _ _ _ (by decide), by decide, by decide, by decide⟩

/-- The hypotheses of `StoppedTimerMeansReleased`: a stopped, released state and its next state. -/
theorem witness_released : ∃ s t : State, s.Inv ∧ s.regs.run = false ∧ s.regs.ReleasedWhenStopped ∧ step s = .next t :=
  ⟨tinyState (tinyRegs .sm 0 false true) [⟨false, true⟩], _,
    ⟨by decide, tinyRegs_inv _ _ _ _ (by decide)⟩, rfl, fun _ => ⟨rfl, rfl⟩, rfl⟩

/-- The hypotheses of `ScratchStateIsNeverVisible`: two different register files that look the same outside. -/
theorem witness_same_outside : ∃ (s : State) (q : Regs s.cfg), s.Inv ∧ q.Inv ∧ s.regs.SameOutside q ∧ s.regs ≠ q := by
  refine ⟨tinyState (tinyRegs .sm 0 true true) [], { tinyRegs .sm 0 true true with acc := 9, cnt := 1 },
    ⟨by decide, tinyRegs_inv _ _ _ _ (by decide)⟩, ?_, ?_, by decide⟩
  · constructor <;> decide
  · constructor <;> decide

/-- The hypotheses of `CodePortIsStableBetweenWrites`, over one step that is not a write. -/
theorem witness_no_write : ∃ s t : State, runFor 1 s = .next t ∧ s.writesCode = false :=
  ⟨tinyState (tinyRegs .sm 0 true true) [⟨false, true⟩], _, rfl, by decide⟩

/-- The hypotheses of the last clause of `ShortStartMarkResynchronises`: an SS_RESYNC under a lit indicator and an IDLE
step after it. -/
theorem witness_resync_keeps_rx : ∃ s u t : State, s.fetch = .ssResync false false false ∧ s.regs.rx = true
    ∧ step s = .next u ∧ step u = .next t ∧ runFor 2 s = .next t
    ∧ ∀ v ∈ [s, u], v.input.rst = false ∧ v.fetch.row.mnemonic ≠ "WDT_FIRE" :=
  ⟨tinyState { tinyRegs .ss 2 true false with rx := true } [⟨false, true⟩, ⟨false, true⟩], _, _, by decide, rfl, rfl,
    rfl, rfl, by decide⟩

/-- The hypotheses of `StoppedBlockStaysAsItIs`. -/
theorem witness_stopped_block : ∃ (s : State) (rest : List Input), s.cfg.wf = true ∧ s.regs.run = false
    ∧ s.stim = List.replicate 3 ⟨false, s.regs.pinQ⟩ ++ rest :=
  ⟨tinyState (tinyRegs .sm 12 false true) (List.replicate 3 ⟨false, true⟩), [], by decide, rfl, rfl⟩

/-- The hypotheses of `DurationEqualsRunLength` at both ends of the range of `n`. -/
theorem witness_run_length : ∀ n ∈ [1, 12], ∃ (s : State) (rest : List Input), s.cfg.wf = true ∧ s.regs.run = true
    ∧ s.regs.tmr.toNat = 0 ∧ 1 ≤ n ∧ n ≤ s.cfg.wdtTicks
    ∧ s.stim = List.replicate (n - 1) ⟨false, s.regs.pinQ⟩ ++ ⟨false, !s.regs.pinQ⟩ :: rest := by
  intro n hn
  refine ⟨tinyState (tinyRegs .ss 0 true false) (List.replicate (n - 1) ⟨false, false⟩ ++ [⟨false, true⟩]), [],
    witness_tiny_wf.1, rfl, by show (0 : BitVec 4).toNat = 0; decide, ?_, ?_, rfl⟩
  · revert n
    decide
  · revert n
    decide

/-- The hypotheses of `WatchdogFiresAtTheWindow`, at the first and the last count. -/
theorem witness_window : ∀ k ∈ [0, 11], ∃ (s : State) (rest : List Input), s.cfg.wf = true ∧ s.regs.run = true
    ∧ s.regs.tmr.toNat = k ∧ s.regs.tmr.toNat < s.cfg.wdtTicks
    ∧ s.stim = List.replicate (s.cfg.wdtTicks - s.regs.tmr.toNat) ⟨false, s.regs.pinQ⟩ ++ rest := by
  intro k hk
  refine ⟨tinyState (tinyRegs .bm k true true)
    (List.replicate (12 - (tinyRegs .bm k true true).tmr.toNat) ⟨false, true⟩), [], witness_tiny_wf.1, rfl, ?_, ?_, ?_⟩
  · revert k
    decide
  · revert k
    decide
  · exact (List.append_nil _).symm

/-- The hypotheses of `SilenceReturnsToTheStart`, with the timer running and stopped, and of its last clause. -/
theorem witness_silence : ∀ run : Bool, ∃ (s : State) (rest : List Input), s.regs.run = run ∧ s.Inv
    ∧ s.stim = List.replicate s.cfg.wdtTicks ⟨false, s.regs.pinQ⟩ ++ rest ∧ s.regs.ReleasedWhenStopped := by
  intro run
  refine ⟨tinyState (tinyRegs .sm 0 run false) (List.replicate 12 ⟨false, false⟩), [], rfl,
    ⟨witness_tiny_wf.1, tinyRegs_inv _ _ _ _ ?_⟩, rfl, fun _ => ⟨rfl, rfl⟩⟩
  revert run
  decide

/-- The hypotheses of `OneStepGlitchIsAZeroBit`. -/
theorem witness_glitch : ∃ (s : State) (rest : List Input), s.Inv ∧ s.regs.st = .bm
    ∧ s.stim = ⟨false, false⟩ :: ⟨false, true⟩ :: rest :=
  ⟨tinyState (tinyRegs .bm 5 true true) [⟨false, false⟩, ⟨false, true⟩], [],
    ⟨by decide, tinyRegs_inv _ _ _ _ (by decide)⟩, rfl, rfl⟩

/-- The hypotheses of `ShortStartMarkLeavesNoTrace` at both ends of the range of `d`. -/
theorem witness_short_start_mark : ∀ d ∈ [1, 6], ∃ (s : State) (rest : List Input), s.cfg.wf = true ∧ s.regs.st = .sm
    ∧ s.regs.pinQ = true ∧ 1 ≤ d ∧ d ≤ s.cfg.thrLong ∧ s.stim = stimInputs [.low d] ++ ⟨false, true⟩ :: rest := by
  intro d hd
  refine ⟨tinyState (tinyRegs .sm 0 false true) (stimInputs [.low d] ++ [⟨false, true⟩]), [],
    witness_tiny_wf.1, rfl, rfl, ?_, ?_, rfl⟩
  · revert d
    decide
  · revert d
    decide

/-- The hypotheses of `TimedFrameIsDecoded`, with intervals at the bounds of their ranges. -/
theorem witness_timed_frame : ∃ (startMark : Nat) (bits : List (Nat × Nat)) (s : State) (rest : List Input),
    s.cfg.wf = true ∧ s.regs.st = .sm ∧ s.regs.pinQ = true ∧ s.cfg.thrLong < startMark ∧ startMark ≤ s.cfg.wdtTicks
      ∧ bits.length = s.cfg.nbits
      ∧ (∀ b ∈ bits, 1 ≤ b.1 ∧ b.1 ≤ s.cfg.wdtTicks ∧ 1 ≤ b.2 ∧ b.2 < s.cfg.thrLong)
      ∧ s.stim = stimInputs (timedFrame startMark bits) ++ ⟨false, true⟩ :: rest :=
  ⟨7, [(1, 5), (12, 1)],
    tinyState (tinyRegs .sm 0 false true) (stimInputs (timedFrame 7 [(1, 5), (12, 1)]) ++ [⟨false, true⟩]), [],
    by decide, rfl, rfl, by decide, by decide, rfl, by decide, rfl⟩

/-- The hypotheses of `NominalFrameAfterResetIsRead`. -/
theorem witness_nominal_frame : ∃ (bits : List Bool) (s : State) (rest : List Input), s.cfg = Config.reference
    ∧ bits.length = 15
    ∧ s.stim = stimInputs (.rst :: frameItems Config.reference bits ++ [.high 1]) ++ rest :=
  ⟨List.replicate 15 true,
    { State.reset with stim := stimInputs (.rst :: frameItems Config.reference (List.replicate 15 true) ++ [.high 1]) },
    [], rfl, rfl, (List.append_nil _).symm⟩

/-- The hypothesis of `NominalFrameLength`'s bounds: fifteen bits. -/
theorem witness_fifteen_bits : (List.replicate 15 false).length = 15 := by decide

end Sys2Proof.Tests
end

section
/-! SUPPORT. Rule R25 (spec/10_state.md section 7), register by register: the registers each operation leaves, and who
may write each of them. -/
namespace Sys2Proof.Machine

/-- The registers at the end of a step that performs `i` (rule R60). -/
def resultRegs (i : Instr) (s : State) : Regs s.cfg :=
  match i with
  | .reset .. => resetRegs s.cfg s.input.pin
  | .idle .. => s.sampled
  | .wdtFire .. => s.sampled.wdtFire
  | .smMarkBegin .. => s.sampled.smMarkBegin
  | .smIgnore .. => s.sampled.smIgnore
  | .ssAccept .. => s.sampled.ssAccept
  | .ssResync .. => s.sampled.ssResync
  | .ssViol .. => s.sampled.ssViol
  | .bmMarkBegin .. => s.sampled.bmMarkBegin
  | .bmViol .. => s.sampled.bmViol
  | .bsBit0 .. => s.sampled.bsBit0
  | .bsBit1 .. => s.sampled.bsBit1
  | .bsLong .. => s.sampled.bsLong
  | .bsViol .. => s.sampled.bsViol

theorem exec_eq_commit_resultRegs (i : Instr) (s : State) : exec i s = .next (s.commit (resultRegs i s)) := by
  cases i <;> rfl

/-- The next state of an operation is the old one with `resultRegs` committed. -/
theorem eq_commit_of_exec_next {i : Instr} {s t : State} (h : exec i s = .next t) : t = s.commit (resultRegs i s) := by
  rw [exec_eq_commit_resultRegs] at h
  exact (Host.Outcome.next.inj h).symm

/-- `SHIFT_IN` changes `code` only on the bit that completes the frame, and then to the new accumulator (rule R86). -/
theorem Regs.shiftIn_code_ne {c : Config} {r : Regs c} {b : Bool} (h : (r.shiftIn b).code.toNat ≠ r.code.toNat) :
    (r.shiftIn b).cnt.toNat = c.nbits ∧ (r.shiftIn b).code = (r.shiftIn b).acc := by
  by_cases hlast : (countedBit r.cnt).toNat = c.nbits
  · exact ⟨by rw [shiftIn_cnt, hlast], by rw [shiftIn_last hlast]⟩
  · exact absurd (by rw [shiftIn_more hlast]) h

/-- An error of a kind that does not set `fault` leaves it as it is (rule R106). -/
theorem Regs.fsmError_resync_fault {c : Config} (r : Regs c) : (r.fsmError .resync).fault = r.fault :=
  Bool.or_false _

/-- An error of a kind that sets `fault` leaves it lit (rule R106). -/
theorem Regs.fsmError_fault_of_setsFault {c : Config} (r : Regs c) {k : ErrorKind} (h : setsFault k = true) :
    (r.fsmError k).fault = true := by
  rw [fsmError_fault, h, Bool.or_true]

variable {i : Instr} {s : State}

/-! ### Who writes each register -/

theorem resultRegs_acc_cnt_writer
    (h : (resultRegs i s).acc.toNat ≠ s.regs.acc.toNat ∨ (resultRegs i s).cnt.toNat ≠ s.regs.cnt.toNat) :
    (∃ e m v x a b d, i = .reset e m v x a b d) ∨ (∃ m b d, i = .ssAccept m b d) ∨ (∃ m a, i = .bsBit0 m a)
      ∨ ∃ m a, i = .bsBit1 m a := by
  cases i with
  | reset => exact .inl ⟨_, _, _, _, _, _, _, rfl⟩
  | ssAccept => exact .inr (.inl ⟨_, _, _, rfl⟩)
  | bsBit0 => exact .inr (.inr (.inl ⟨_, _, rfl⟩))
  | bsBit1 => exact .inr (.inr (.inr ⟨_, _, rfl⟩))
  | _ => exact (h.elim (· rfl) (· rfl)).elim

theorem resultRegs_code_writer (h : (resultRegs i s).code.toNat ≠ s.regs.code.toNat) :
    (((∃ e m v x a b d, i = .reset e m v x a b d) ∨ ∃ v x a b d, i = .wdtFire v x a b d)
        ∧ (resultRegs i s).code.toNat = 0)
      ∨ (((∃ m a, i = .bsBit0 m a) ∨ ∃ m a, i = .bsBit1 m a)
        ∧ (resultRegs i s).cnt.toNat = s.cfg.nbits ∧ (resultRegs i s).code.toNat = (resultRegs i s).acc.toNat) := by
  cases i with
  | reset => exact .inl ⟨.inl ⟨_, _, _, _, _, _, _, rfl⟩, BitVec.toNat_zero⟩
  | wdtFire => exact .inl ⟨.inr ⟨_, _, _, _, _, rfl⟩, BitVec.toNat_zero⟩
  | bsBit0 =>
    obtain ⟨hcnt, hcode⟩ := Regs.shiftIn_code_ne h
    exact .inr ⟨.inl ⟨_, _, rfl⟩, hcnt, congrArg BitVec.toNat hcode⟩
  | bsBit1 =>
    obtain ⟨hcnt, hcode⟩ := Regs.shiftIn_code_ne h
    exact .inr ⟨.inr ⟨_, _, rfl⟩, hcnt, congrArg BitVec.toNat hcode⟩
  | _ => exact (h rfl).elim

theorem resultRegs_rx_writer (h : (resultRegs i s).rx ≠ s.regs.rx) :
    ((∃ m b d, i = .ssAccept m b d) ∧ (resultRegs i s).rx = true)
      ∨ (((∃ v x a b d, i = .wdtFire v x a b d) ∨ ∃ e m v x a b d, i = .reset e m v x a b d)
        ∧ (resultRegs i s).rx = false) := by
  cases i with
  | ssAccept => exact .inl ⟨⟨_, _, _, rfl⟩, rfl⟩
  | wdtFire => exact .inr ⟨.inl ⟨_, _, _, _, _, rfl⟩, rfl⟩
  | reset => exact .inr ⟨.inr ⟨_, _, _, _, _, _, _, rfl⟩, rfl⟩
  | bsBit0 | bsBit1 => exact (h (Regs.shiftIn_rx _ _)).elim
  | _ => exact (h rfl).elim

theorem resultRegs_fault_writer (h : (resultRegs i s).fault ≠ s.regs.fault) :
    (((∃ m a b d, i = .ssViol m a b d) ∨ (∃ m a b d, i = .bmViol m a b d) ∨ (∃ m a b d, i = .bsViol m a b d)
        ∨ ∃ m a d, i = .bsLong m a d) ∧ (resultRegs i s).fault = true)
      ∨ ((∃ e m v x a b d, i = .reset e m v x a b d) ∧ (resultRegs i s).fault = false) := by
  cases i with
  | reset => exact .inr ⟨⟨_, _, _, _, _, _, _, rfl⟩, rfl⟩
  | ssViol => exact .inl ⟨.inl ⟨_, _, _, _, rfl⟩, Regs.fsmError_fault_of_setsFault _ rfl⟩
  | bmViol => exact .inl ⟨.inr (.inl ⟨_, _, _, _, rfl⟩), Regs.fsmError_fault_of_setsFault _ rfl⟩
  | bsViol => exact .inl ⟨.inr (.inr (.inl ⟨_, _, _, _, rfl⟩)), Regs.fsmError_fault_of_setsFault _ rfl⟩
  | bsLong => exact .inl ⟨.inr (.inr (.inr ⟨_, _, _, rfl⟩)), Regs.fsmError_fault_of_setsFault _ rfl⟩
  | ssResync => exact (h (Regs.fsmError_resync_fault _)).elim
  | bsBit0 | bsBit1 => exact (h (Regs.shiftIn_fault _ _)).elim
  | _ => exact (h rfl).elim

theorem resultRegs_run_writer (h : (resultRegs i s).run ≠ s.regs.run) :
    (((∃ m a b d, i = .smMarkBegin m a b d) ∨ ∃ e m v x a b d, i = .reset e m v x a b d)
        ∧ (resultRegs i s).run = true)
      ∨ ((∃ v x a b d, i = .wdtFire v x a b d) ∧ (resultRegs i s).run = false) := by
  cases i with
  | smMarkBegin => exact .inl ⟨.inl ⟨_, _, _, _, rfl⟩, rfl⟩
  | reset => exact .inl ⟨.inr ⟨_, _, _, _, _, _, _, rfl⟩, rfl⟩
  | wdtFire => exact .inr ⟨⟨_, _, _, _, _, rfl⟩, rfl⟩
  | bsBit0 | bsBit1 => exact (h (Regs.shiftIn_run _ _)).elim
  | _ => exact (h rfl).elim

/-- The common tail of rule R76, in each of the eleven edge operations. -/
theorem resultRegs_tmr_of_isEdgeOp (h : i.isEdgeOp = true) : (resultRegs i s).tmr = 0 := by
  cases i with
  | reset | idle | wdtFire => exact (Bool.false_ne_true h).elim
  | bsBit0 | bsBit1 => exact Regs.shiftIn_tmr _ _
  | _ => rfl

/-- The sampler of rule R60 writes `pin_q` whatever the operation. -/
theorem resultRegs_pinQ (i : Instr) (s : State) : (resultRegs i s).pinQ = s.input.pin := by
  cases i with
  | bsBit0 | bsBit1 => exact Regs.shiftIn_pinQ _ _
  | _ => rfl

/-- Settles O30: a next state is `resultRegs` committed, and each clause is the lemma about its register. -/
theorem ownershipOfRegisters : Obligations.OwnershipOfRegisters := by
  intro i s t h
  obtain rfl := eq_commit_of_exec_next h
  refine ⟨rfl, ?idle_st, resultRegs_acc_cnt_writer, resultRegs_code_writer, resultRegs_rx_writer,
    resultRegs_fault_writer, resultRegs_run_writer, ?tmr_reset, ?tmr_tick, resultRegs_pinQ i s⟩
  case idle_st =>
    rintro ⟨_, _, _, _, _, rfl⟩
    rfl
  case tmr_reset =>
    rintro (hedge | ⟨_, _, _, _, _, _, _, rfl⟩)
    · exact (congrArg BitVec.toNat (resultRegs_tmr_of_isEdgeOp hedge)).trans BitVec.toNat_zero
    · exact BitVec.toNat_zero
  case tmr_tick =>
    rintro (⟨_, _, _, _, _, rfl⟩ | ⟨_, _, _, _, _, rfl⟩) <;> rfl

end Sys2Proof.Machine
end

section
/-! SUPPORT. The dispatch word (spec/30_encoding.md): where the fields of rule R45 stand in a word, that the rows of
rule R49 are disjoint and cover every word, and what the comparator bits of rule R48 say. -/
namespace Sys2Proof

/-! ### The bits of a word (rule R45) -/

/-- The table of rule R45: what stands at each bit of a word with the fields `f`. -/
def Fields.bit (f : Fields) : Nat → Bool
  | 8 => f.rst
  | 7 => f.edge
  | 6 => f.cm
  | 5 => f.lvl
  | 4 => f.st.bits[1]
  | 3 => f.st.bits[0]
  | 2 => f.gtL
  | 1 => f.geL
  | 0 => f.gtS
  | _ => false

theorem Fields.getElem_pack (f : Fields) {i : Nat} (hi : i < 9) : f.pack[i] = f.bit i := by
  rw [← BitVec.getLsbD_eq_getElem, Fields.pack]
  simp only [BitVec.getLsbD_append, BitVec.getLsbD_ofBool]
  interval_cases i <;> rfl

theorem Fields.extractLsb'_pack (f : Fields) : f.pack.extractLsb' 3 2 = f.st.bits := by
  ext i hi
  rw [BitVec.getElem_extractLsb']
  interval_cases i
  · exact f.getElem_pack (i := 3) (by decide)
  · exact f.getElem_pack (i := 4) (by decide)

/-- Settles O5: the word packs the fields of rules R46 to R48, each at its place in the table of rule R45. -/
theorem dispatchWordFields : Obligations.DispatchWordFields := by
  intro s
  have hbit : ∀ i (hi : i < 9), s.dispatchWord[i] = (s.regs.dispatchFields s.input).bit i := fun _ hi =>
    (s.regs.dispatchFields s.input).getElem_pack hi
  exact ⟨hbit 8 _, hbit 7 _, hbit 6 _, hbit 5 _, Fields.extractLsb'_pack _, hbit 2 _, hbit 1 _, hbit 0 _⟩

/-! ### Every word is the word of the operation it selects (rule R49) -/

/-- All four state codes are legal (rule R52). -/
@[simp] theorem DecoderState.bits_ofBits (b : BitVec 2) : (DecoderState.ofBits b).bits = b := by
  revert b
  decide

/-- The fields of a word, read at their places (rule R45). -/
def wordFields (w : DispatchWord) : Fields :=
  ⟨w[8], w[7], w[6], w[5], stField w, w[2], w[1], w[0]⟩

theorem pack_wordFields (w : DispatchWord) : (wordFields w).pack = w := by
  ext i hi
  rw [Fields.getElem_pack]
  interval_cases i <;> simp [wordFields, Fields.bit, stField]

/-- The selected operation keeps every field: those its pattern fixes are the ones that selected it. -/
@[simp] theorem Fields.select_fields (f : Fields) : f.select.fields = f := by
  obtain ⟨r, e, m, v, x, a, b, d⟩ := f
  cases r with
  | true => rfl
  | false =>
    cases e with
    | false => cases m <;> rfl
    | true =>
      cases x with
      | sm | bm => cases v <;> rfl
      | ss =>
        cases v with
        | true => rfl
        | false => cases a <;> rfl
      | bs =>
        cases v with
        | true => rfl
        | false => cases b <;> cases d <;> rfl

theorem encode_decode (w : DispatchWord) : encode (decode w) = w := by
  calc encode (decode w)
      = (decode (wordFields w).pack).fields.pack := by rw [pack_wordFields, encode]
    _ = (wordFields w).pack := by rw [decode_pack, Fields.select_fields]
    _ = w := pack_wordFields w

/-! ### The rows are disjoint and cover all words (rules R49 and R50) -/

theorem fitsRow (i : Instr) : Laws.FitsRow.Statement i := by
  cases i with
  | reset => exact Laws.FitsRow.reset ..
  | idle => exact Laws.FitsRow.idle ..
  | wdtFire => exact Laws.FitsRow.wdtFire ..
  | smMarkBegin => exact Laws.FitsRow.smMarkBegin ..
  | smIgnore => exact Laws.FitsRow.smIgnore ..
  | ssAccept => exact Laws.FitsRow.ssAccept ..
  | ssResync => exact Laws.FitsRow.ssResync ..
  | ssViol => exact Laws.FitsRow.ssViol ..
  | bmMarkBegin => exact Laws.FitsRow.bmMarkBegin ..
  | bmViol => exact Laws.FitsRow.bmViol ..
  | bsBit0 => exact Laws.FitsRow.bsBit0 ..
  | bsBit1 => exact Laws.FitsRow.bsBit1 ..
  | bsLong => exact Laws.FitsRow.bsLong ..
  | bsViol => exact Laws.FitsRow.bsViol ..

theorem decode_row_selects (w : DispatchWord) : (decode w).row.selects w = true := by
  have h := (fitsRow (decode w)).1
  rwa [encode_decode] at h

/-- Two rows that select one word agree on the bits that both of them fix. -/
theorem Row.pattern_and_mask_comm {p q : Row} {w : DispatchWord} (hp : p.selects w = true) (hq : q.selects w = true) :
    p.pattern &&& q.mask = q.pattern &&& p.mask := by
  rw [← eq_of_beq hp, ← eq_of_beq hq, BitVec.and_assoc, BitVec.and_assoc, BitVec.and_comm p.mask]

/-- Any two different rows differ on a bit that both of them fix. -/
theorem eq_of_pattern_and_mask_comm : ∀ p ∈ opcodeTable, ∀ q ∈ opcodeTable,
    p.pattern &&& q.mask = q.pattern &&& p.mask → p = q := by
  decide

/-- Settles O3: a word fits the row of its operation, and rows that share a word are the same. -/
theorem everyWordSelectsExactlyOneRow : Obligations.EveryWordSelectsExactlyOneRow := by
  refine ⟨rfl, fun w => ?_⟩
  obtain ⟨-, hmem, hname⟩ := fitsRow (decode w)
  exact ⟨hmem, decode_row_selects w, hname, fun r hr hsel =>
    eq_of_pattern_and_mask_comm r hr _ hmem (Row.pattern_and_mask_comm hsel (decode_row_selects w))⟩

/-! ### The duration operand and its classes (rule R48) -/

namespace Machine

/-- The running count is advanced modulo its width (rule R65). -/
theorem Regs.duration_toNat_running_mod {c : Config} {r : Regs c} (h : r.run = true) :
    r.duration.toNat = (r.tmr.toNat + 1) % 2 ^ c.wTmr := by
  simp [Regs.duration_running h, BitVec.toNat_add]

/-- Settles O6: the count's update, and since `THR_SHORT < THR_LONG` each class decides all three comparisons. -/
theorem durationOperandAndItsClasses : Obligations.DurationOperandAndItsClasses := by
  intro c r hc
  obtain ⟨-, hthr, -⟩ := (Config.wf_iff c).1 hc
  refine ⟨Regs.duration_toNat_running_mod, Regs.duration_stopped, fun d => ?_⟩
  simp only [gtLong, geLong, gtShort, Prod.mk.injEq, decide_eq_true_eq, decide_eq_false_iff_not]
  omega

end Machine
end Sys2Proof
end

section
/-! SUPPORT. The front end and the edge timer (spec/40_frontend_timer.md): the word-dispatched step is the step function
of rule R60, and what the branches of that function leave in the timer (rules R62 and R66). -/
namespace Sys2Proof

/-! ### The words of a row (rules R49 and R50) -/

/-- A word fits a row of rule R49 exactly when that is the row of its operation. -/
theorem and_mask_eq_pattern_iff {r : Row} (hr : r ∈ opcodeTable) (w : DispatchWord) :
    w &&& r.mask = r.pattern ↔ (decode w).row = r := by
  constructor
  · intro h
    obtain ⟨-, -, -, huniq⟩ := everyWordSelectsExactlyOneRow.2 w
    exact (huniq r hr (beq_iff_eq.2 h)).symm
  · rintro rfl
    exact eq_of_beq (decode_row_selects w)

theorem Instr.row_eq_idle_iff (i : Instr) :
    i.row = ⟨"IDLE", 0x000#9, 0x1C0#9⟩ ↔ ∃ v x a b d, i = .idle v x a b d := by
  cases i <;> simp [Instr.row]

namespace Machine

variable {c : Config} {s : State}

/-! ### The branches of the step function (rule R60) -/

section
variable {r : Regs c} {i : Input}

theorem Regs.pinStep_of_rst (h : i.rst = true) : r.pinStep i = resetRegs c i.pin := by
  simp [pinStep, h]

theorem Regs.pinStep_of_edge (h : i.rst = false) (hedge : i.pin ≠ r.pinQ) :
    r.pinStep i = (r.sample i.pin).edgeOp (!i.pin) r.duration := by
  simp [pinStep, h, hedge]

theorem Regs.pinStep_of_match (h : i.rst = false) (hpin : i.pin = r.pinQ)
    (hm : r.run = true ∧ r.duration.toNat = c.wdtTicks) : r.pinStep i = (r.sample i.pin).wdtFire := by
  simp [pinStep, h, hpin, hm]

theorem Regs.pinStep_of_idle (h : i.rst = false) (hpin : i.pin = r.pinQ)
    (hm : ¬ (r.run = true ∧ r.duration.toNat = c.wdtTicks)) : r.pinStep i = r.sample i.pin := by
  simp [pinStep, h, hpin, hm]

end

/-! ### The dispatch word selects the branch (rules R45 to R49) -/

theorem resultRegs_fetch_of_rst (h : s.input.rst = true) :
    resultRegs s.fetch s = resetRegs s.cfg s.input.pin := by
  rw [State.fetch_eq_select]
  simp [Fields.select, Regs.dispatchFields, h, resultRegs]

/-- In a step with an edge, the state, polarity and comparator fields choose as `EDGE_OP` does (rule R75). -/
theorem resultRegs_fetch_of_edge (h : s.input.rst = false) (hedge : s.input.pin ≠ s.regs.pinQ) :
    resultRegs s.fetch s = s.sampled.edgeOp (!s.input.pin) s.regs.duration := by
  have he : edgeDetect s.regs.pinQ s.input.pin = true := bne_iff_ne.2 hedge
  rw [State.fetch_eq_select]
  simp only [Fields.select, Regs.dispatchFields, h, he, lvlOf, Regs.edgeOp, State.sampled_eq, Regs.sample_st]
  generalize (!s.input.pin) = lvl
  cases s.regs.st with
  | sm | bm => cases lvl <;> rfl
  | ss =>
    cases lvl with
    | true => rfl
    | false => by_cases hL : s.regs.duration.toNat > s.cfg.thrLong <;> simp [gtLong, hL, resultRegs]
  | bs =>
    cases lvl with
    | true => rfl
    | false =>
      by_cases hL : s.regs.duration.toNat ≥ s.cfg.thrLong
      · simp [geLong, hL, resultRegs]
      · by_cases hS : s.regs.duration.toNat > s.cfg.thrShort <;> simp [geLong, gtShort, hL, hS, resultRegs]

theorem resultRegs_fetch_of_match (h : s.input.rst = false) (hpin : s.input.pin = s.regs.pinQ)
    (hm : s.regs.run = true ∧ s.regs.duration.toNat = s.cfg.wdtTicks) :
    resultRegs s.fetch s = s.sampled.wdtFire := by
  rw [State.fetch_eq_select]
  simp [Fields.select, Regs.dispatchFields, h, edgeDetect, hpin, compareMatch, hm, resultRegs]

theorem resultRegs_fetch_of_idle (h : s.input.rst = false) (hpin : s.input.pin = s.regs.pinQ)
    (hm : ¬ (s.regs.run = true ∧ s.regs.duration.toNat = s.cfg.wdtTicks)) :
    resultRegs s.fetch s = s.sampled := by
  have hcm : compareMatch s.cfg s.regs.run s.regs.duration = false := by simpa [compareMatch] using hm
  rw [State.fetch_eq_select]
  simp [Fields.select, Regs.dispatchFields, h, edgeDetect, hpin, hcm, resultRegs]

/-- Dispatch by the word and the selection of rule R60 by comparing leave the same registers. -/
theorem resultRegs_fetch (s : State) : resultRegs s.fetch s = s.regs.pinStep s.input := by
  cases hrst : s.input.rst with
  | true => rw [resultRegs_fetch_of_rst hrst, Regs.pinStep_of_rst hrst]
  | false =>
    by_cases hpin : s.input.pin = s.regs.pinQ
    · by_cases hm : s.regs.run = true ∧ s.regs.duration.toNat = s.cfg.wdtTicks
      · rw [resultRegs_fetch_of_match hrst hpin hm, Regs.pinStep_of_match hrst hpin hm, State.sampled_eq]
      · rw [resultRegs_fetch_of_idle hrst hpin hm, Regs.pinStep_of_idle hrst hpin hm, State.sampled_eq]
    · rw [resultRegs_fetch_of_edge hrst hpin, Regs.pinStep_of_edge hrst hpin, State.sampled_eq]

/-- Settles O12: every operation commits its `resultRegs`, which for the fetched one are those of rule R60. -/
theorem stepIsTheStepFunction : Obligations.StepIsTheStepFunction := by
  intro s hc
  rw [step_of_wf hc, exec_eq_commit_resultRegs, resultRegs_fetch]

/-! ### The timer after a step (rule R62) -/

section
variable (r : Regs c)

/-- Every edge operation resets the count (rule R76). -/
@[simp] theorem Regs.edgeOp_tmr (lvl : Bool) (d : BitVec c.wTmr) : (r.edgeOp lvl d).tmr = 0 := by
  unfold edgeOp
  cases r.st with
  | sm | ss | bm => dsimp only; split_ifs <;> rfl
  | bs =>
    dsimp only
    split_ifs
    · rfl
    · rfl
    · exact shiftIn_tmr _ _
    · exact shiftIn_tmr _ _

theorem Regs.edgeOp_run_of_ne_sm (lvl : Bool) (d : BitVec c.wTmr) (h : r.st ≠ .sm) :
    (r.edgeOp lvl d).run = r.run := by
  unfold edgeOp
  cases hst : r.st with
  | sm => exact absurd hst h
  | ss | bm => dsimp only; split_ifs <;> rfl
  | bs =>
    dsimp only
    split_ifs
    · rfl
    · rfl
    · exact shiftIn_run _ _
    · exact shiftIn_run _ _

/-- An edge operation starts the timer at a start mark and never stops it (rules R62 and R77). -/
theorem Regs.edgeOp_run_iff (lvl : Bool) (d : BitVec c.wTmr) :
    (r.edgeOp lvl d).run = true ↔ (lvl = true ∧ r.st = .sm) ∨ r.run = true := by
  by_cases hst : r.st = .sm
  · cases lvl <;> simp [edgeOp, hst, smMarkBegin, smIgnore]
  · simp [edgeOp_run_of_ne_sm r lvl d hst, hst]

@[simp] theorem Regs.wdtFire_tmr : r.wdtFire.tmr = r.tmr := rfl

@[simp] theorem Regs.wdtFire_run : r.wdtFire.run = false := rfl

end

section
variable {r : Regs c} {i : Input}

/-- A reset and an edge leave the count at 0. -/
theorem Regs.pinStep_tmr_of_rst_or_edge (h : i.rst = true ∨ i.pin ≠ r.pinQ) : (r.pinStep i).tmr = 0 := by
  cases hrst : i.rst with
  | true => rw [pinStep_of_rst hrst]; rfl
  | false =>
    have hedge : i.pin ≠ r.pinQ := h.resolve_left (by simp [hrst])
    rw [pinStep_of_edge hrst hedge, edgeOp_tmr]

/-- In a step without a reset or an edge, compare match or not, the count is the duration operand. -/
theorem Regs.pinStep_tmr_of_steady (h : i.rst = false) (hpin : i.pin = r.pinQ) : (r.pinStep i).tmr = r.duration := by
  by_cases hm : r.run = true ∧ r.duration.toNat = c.wdtTicks
  · rw [pinStep_of_match h hpin hm, wdtFire_tmr, sample_tmr]
  · rw [pinStep_of_idle h hpin hm, sample_tmr]

/-- The timer runs after a reset, a start mark's edge, and whenever it ran and no compare match stopped it. -/
theorem Regs.pinStep_run_iff : (r.pinStep i).run = true ↔
    i.rst = true ∨ (i.pin ≠ r.pinQ ∧ i.pin = false ∧ r.st = .sm)
      ∨ (r.run = true ∧ ¬ (i.pin = r.pinQ ∧ r.duration.toNat = c.wdtTicks)) := by
  cases hrst : i.rst with
  | true => simp [pinStep_of_rst hrst, resetRegs]
  | false =>
    by_cases hpin : i.pin = r.pinQ
    · by_cases hm : r.run = true ∧ r.duration.toNat = c.wdtTicks
      · simp [pinStep_of_match hrst hpin hm, hpin, hm]
      · simpa [pinStep_of_idle hrst hpin hm, hpin, hrst] using hm
    · simp [pinStep_of_edge hrst hpin, edgeOp_run_iff, hpin]

end

/-- Settles O15: the count and the run bit that `pinStep` leaves, branch by branch. -/
theorem timerAdvancesResetsAndStops : Obligations.TimerAdvancesResetsAndStops := by
  intro s hc
  refine ⟨_, stepIsTheStepFunction s hc, fun h => ?zeroed, fun hrst hpin hrun => ?ticked,
    fun hrst hpin hrun => ?held, Regs.pinStep_run_iff⟩
  case zeroed => exact (congrArg BitVec.toNat (Regs.pinStep_tmr_of_rst_or_edge h)).trans BitVec.toNat_zero
  case ticked =>
    rw [State.commit_regs, Regs.pinStep_tmr_of_steady hrst hpin]
    exact Regs.duration_toNat_running_mod hrun
  case held =>
    rw [State.commit_regs, Regs.pinStep_tmr_of_steady hrst hpin]
    exact congrArg BitVec.toNat (Regs.duration_stopped hrun)

/-! ### IDLE (rule R66) -/

/-- Settles O18: the words are those of the row, and a steady step without a compare match is `sampled`, at the level
that `pin_q` already has. -/
theorem idleOnlyTicks : Obligations.IdleOnlyTicks := by
  refine ⟨fun w => ?words, fun _ _ _ _ _ _ => rfl, fun s hc hrst hpin hm => ?steady⟩
  case words =>
    exact (and_mask_eq_pattern_iff (r := ⟨"IDLE", 0x000#9, 0x1C0#9⟩) (by decide) w).trans (Instr.row_eq_idle_iff _)
  case steady =>
    have hm' : ¬ (s.regs.run = true ∧ s.regs.duration.toNat = s.cfg.wdtTicks) := by
      rintro ⟨hrun, hd⟩
      exact hm.elim (by simp [hrun]) (· hd)
    rw [stepIsTheStepFunction s hc, Regs.pinStep_of_idle hrst hpin hm', hpin]
    rfl

end Machine
end Sys2Proof
end

section
/-! SUPPORT. The edge operations (spec/41_fsm_edge_ops.md): which words and which steps select each of them, what it
leaves in the registers, and that a lit receiving indicator outlasts a dropped start mark (rule R80). -/
namespace Sys2Proof

/-! ### The rows of the edge operations (rule R49) -/

namespace Instr

variable (i : Instr)

theorem row_eq_smMarkBegin_iff :
    i.row = ⟨"SM_MARK_BEGIN", 0x0A0#9, 0x1B8#9⟩ ↔ ∃ m a b d, i = .smMarkBegin m a b d := by
  cases i <;> simp [row]

theorem row_eq_smIgnore_iff : i.row = ⟨"SM_IGNORE", 0x080#9, 0x1B8#9⟩ ↔ ∃ m a b d, i = .smIgnore m a b d := by
  cases i <;> simp [row]

theorem row_eq_ssAccept_iff : i.row = ⟨"SS_ACCEPT", 0x08C#9, 0x1BC#9⟩ ↔ ∃ m b d, i = .ssAccept m b d := by
  cases i <;> simp [row]

theorem row_eq_ssResync_iff : i.row = ⟨"SS_RESYNC", 0x088#9, 0x1BC#9⟩ ↔ ∃ m b d, i = .ssResync m b d := by
  cases i <;> simp [row]

theorem row_eq_bmMarkBegin_iff :
    i.row = ⟨"BM_MARK_BEGIN", 0x0B0#9, 0x1B8#9⟩ ↔ ∃ m a b d, i = .bmMarkBegin m a b d := by
  cases i <;> simp [row]

theorem row_eq_bsBit0_iff : i.row = ⟨"BS_BIT0", 0x098#9, 0x1BB#9⟩ ↔ ∃ m a, i = .bsBit0 m a := by
  cases i <;> simp [row]

theorem row_eq_bsBit1_iff : i.row = ⟨"BS_BIT1", 0x099#9, 0x1BB#9⟩ ↔ ∃ m a, i = .bsBit1 m a := by
  cases i <;> simp [row]

theorem row_eq_bsLong_iff : i.row = ⟨"BS_LONG", 0x09A#9, 0x1BA#9⟩ ↔ ∃ m a d, i = .bsLong m a d := by
  cases i <;> simp [row]

end Instr

/-! ### An operation and the fields that select it are in bijection (rules R49 and R50) -/

@[simp] theorem Instr.fields_select (i : Instr) : i.fields.select = i := by
  cases i <;> rfl

theorem Fields.select_eq_iff {f : Fields} {i : Instr} : f.select = i ↔ f = i.fields := by
  constructor
  · rintro rfl
    exact f.select_fields.symm
  · rintro rfl
    exact i.fields_select

namespace Machine

variable {c : Config} {s : State}

theorem State.fetch_eq_iff {i : Instr} : s.fetch = i ↔ s.regs.dispatchFields s.input = i.fields := by
  rw [State.fetch_eq_select, Fields.select_eq_iff]

/-! ### The steps that select each edge operation (rules R46 to R49)

Each of these compares the fields of the step's word with those that the operation's pattern fixes; the open fields are
whatever the step computes. -/

/-- A low pin after a high sample is the asserted edge (rule R61). -/
theorem asserted_edge_and_iff {pinQ pin : Bool} {p : Prop} :
    edgeDetect pinQ pin = true ∧ lvlOf pin = true ∧ p ↔ pinQ = true ∧ pin = false ∧ p := by
  cases pinQ <;> cases pin <;> simp [edgeDetect, lvlOf]

/-- A high pin after a low sample is the deasserted edge (rule R61). -/
theorem deasserted_edge_and_iff {pinQ pin : Bool} {p : Prop} :
    edgeDetect pinQ pin = true ∧ lvlOf pin = false ∧ p ↔ pinQ = false ∧ pin = true ∧ p := by
  cases pinQ <;> cases pin <;> simp [edgeDetect, lvlOf]

theorem State.fetch_eq_smMarkBegin_iff : (∃ m a b d, s.fetch = .smMarkBegin m a b d) ↔
    s.input.rst = false ∧ s.regs.pinQ = true ∧ s.input.pin = false ∧ s.regs.st = .sm := by
  simp [fetch_eq_iff, Regs.dispatchFields, Instr.fields, asserted_edge_and_iff]

theorem State.fetch_eq_smIgnore_iff : (∃ m a b d, s.fetch = .smIgnore m a b d) ↔
    s.input.rst = false ∧ s.regs.pinQ = false ∧ s.input.pin = true ∧ s.regs.st = .sm := by
  simp [fetch_eq_iff, Regs.dispatchFields, Instr.fields, deasserted_edge_and_iff]

theorem State.fetch_eq_bmMarkBegin_iff : (∃ m a b d, s.fetch = .bmMarkBegin m a b d) ↔
    s.input.rst = false ∧ s.regs.pinQ = true ∧ s.input.pin = false ∧ s.regs.st = .bm := by
  simp [fetch_eq_iff, Regs.dispatchFields, Instr.fields, asserted_edge_and_iff]

theorem State.fetch_eq_ssAccept_iff : (∃ m b d, s.fetch = .ssAccept m b d) ↔
    s.input.rst = false ∧ s.regs.pinQ = false ∧ s.input.pin = true ∧ s.regs.st = .ss
      ∧ s.regs.duration.toNat > s.cfg.thrLong := by
  simp [fetch_eq_iff, Regs.dispatchFields, Instr.fields, deasserted_edge_and_iff, gtLong]

theorem State.fetch_eq_ssResync_iff : (∃ m b d, s.fetch = .ssResync m b d) ↔
    s.input.rst = false ∧ s.regs.pinQ = false ∧ s.input.pin = true ∧ s.regs.st = .ss
      ∧ s.regs.duration.toNat ≤ s.cfg.thrLong := by
  simp [fetch_eq_iff, Regs.dispatchFields, Instr.fields, deasserted_edge_and_iff, gtLong]

theorem State.fetch_eq_bsBit0_iff : (∃ m a, s.fetch = .bsBit0 m a) ↔
    s.input.rst = false ∧ s.regs.pinQ = false ∧ s.input.pin = true ∧ s.regs.st = .bs
      ∧ s.regs.duration.toNat < s.cfg.thrLong ∧ s.regs.duration.toNat ≤ s.cfg.thrShort := by
  simp [fetch_eq_iff, Regs.dispatchFields, Instr.fields, deasserted_edge_and_iff, geLong, gtShort]

theorem State.fetch_eq_bsBit1_iff : (∃ m a, s.fetch = .bsBit1 m a) ↔
    s.input.rst = false ∧ s.regs.pinQ = false ∧ s.input.pin = true ∧ s.regs.st = .bs
      ∧ s.regs.duration.toNat < s.cfg.thrLong ∧ s.cfg.thrShort < s.regs.duration.toNat := by
  simp [fetch_eq_iff, Regs.dispatchFields, Instr.fields, deasserted_edge_and_iff, geLong, gtShort]

theorem State.fetch_eq_bsLong_iff : (∃ m a d, s.fetch = .bsLong m a d) ↔
    s.input.rst = false ∧ s.regs.pinQ = false ∧ s.input.pin = true ∧ s.regs.st = .bs
      ∧ s.regs.duration.toNat ≥ s.cfg.thrLong := by
  simp [fetch_eq_iff, Regs.dispatchFields, Instr.fields, deasserted_edge_and_iff, geLong]

theorem State.input_rst_of_fetch_eq_reset {e m v : Bool} {x : DecoderState} {a b d : Bool}
    (h : s.fetch = .reset e m v x a b d) : s.input.rst = true :=
  congrArg Fields.rst (fetch_eq_iff.1 h)

/-! ### What each edge operation leaves (rules R77 to R87) -/

theorem Regs.fsmError_resync (r : Regs c) : r.fsmError .resync = { r with tmr := 0, st := .sm } := by
  rw [fsmError, setsFault, Bool.or_false]
  rfl

theorem Regs.fsmError_of_setsFault (r : Regs c) {k : ErrorKind} (h : setsFault k = true) :
    r.fsmError k = { r with fault := true, tmr := 0, st := .sm } := by
  rw [fsmError, h, Bool.or_true]
  rfl

section
variable (m a b d : Bool) (s : State)

theorem exec_smMarkBegin : exec (.smMarkBegin m a b d) s =
    .next (s.commit { s.regs with run := true, tmr := 0, st := .ss, pinQ := s.input.pin }) := rfl

theorem exec_smIgnore : exec (.smIgnore m a b d) s =
    .next (s.commit { s.regs with tmr := 0, st := .sm, pinQ := s.input.pin }) := rfl

theorem exec_bmMarkBegin : exec (.bmMarkBegin m a b d) s =
    .next (s.commit { s.regs with tmr := 0, st := .bs, pinQ := s.input.pin }) := rfl

theorem exec_ssAccept : exec (.ssAccept m b d) s = .next (s.commit { s.regs with
    rx := true, acc := 0, cnt := 0, tmr := 0, st := .bm, pinQ := s.input.pin }) := rfl

theorem exec_ssResync : exec (.ssResync m b d) s =
    .next (s.commit { s.regs with tmr := 0, st := .sm, pinQ := s.input.pin }) := by
  rw [exec_eq_commit_resultRegs, resultRegs, Regs.ssResync, Regs.fsmError_resync]
  rfl

theorem exec_bsLong : exec (.bsLong m a d) s =
    .next (s.commit { s.regs with fault := true, tmr := 0, st := .sm, pinQ := s.input.pin }) := by
  rw [exec_eq_commit_resultRegs, resultRegs, Regs.bsLong, Regs.fsmError_of_setsFault _ rfl]
  rfl

theorem exec_bsBit0 : exec (.bsBit0 m a) s = .next (s.commit (s.sampled.shiftIn false)) := rfl

theorem exec_bsBit1 : exec (.bsBit1 m a) s = .next (s.commit (s.sampled.shiftIn true)) := rfl

end

/-- `SHIFT_IN` as one update, with the published value inside it (rule R86). -/
theorem Regs.shiftIn_eq (r : Regs c) (b : Bool) : r.shiftIn b =
    if (countedBit r.cnt).toNat = c.nbits then
      { r with acc := shiftedAcc r.acc b, cnt := countedBit r.cnt, code := shiftedAcc r.acc b, tmr := 0, st := .sm }
    else { r with acc := shiftedAcc r.acc b, cnt := countedBit r.cnt, tmr := 0, st := .bm } := by
  split
  next hlast => exact shiftIn_last hlast
  next hmore => exact shiftIn_more hmore

/-! ### The receiving indicator over a run (rule R24 item 7) -/

theorem runFor_succ_next_inv {n : Nat} {s t : State} (h : runFor (n + 1) s = .next t) :
    ∃ u, step s = .next u ∧ runFor n u = .next t := by
  cases hs : step s with
  | next u => exact ⟨u, rfl, by rw [← runFor_succ hs, h]⟩
  | fault r => cases r
  | refused r =>
    have hcore : Sys2Proof.core.step s = .refused r := hs
    simp [runFor, Host.Core.run, hcore] at h

/-- What every step from a state with `Q` keeps, a run through such states keeps. -/
theorem runFor_keeps {P Q : State → Prop} (hstep : ∀ u v, Q u → step u = .next v → P u → P v) {n : Nat} {s t : State}
    (hrun : runFor n s = .next t) (hQ : ∀ k < n, ∀ u, runFor k s = .next u → Q u) (hP : P s) : P t := by
  induction n generalizing s with
  | zero =>
    cases hrun
    exact hP
  | succ n ih =>
    obtain ⟨u, hsu, hut⟩ := runFor_succ_next_inv hrun
    have hQs : Q s := hQ 0 n.succ_pos s (runFor_zero s)
    refine ih hut (fun k hk v hkv => ?_) (hstep s u hQs hsu hP)
    exact hQ (k + 1) (Nat.succ_lt_succ hk) v (by rw [runFor_succ hsu, hkv])

/-- Only WDT_FIRE and RESET put the receiving indicator out. -/
theorem resultRegs_keeps_rx_lit {i : Instr} (hfire : ¬ ∃ v x a b d, i = .wdtFire v x a b d)
    (hreset : ¬ ∃ e m v x a b d, i = .reset e m v x a b d) (hrx : s.regs.rx = true) : (resultRegs i s).rx = true := by
  by_cases hsame : (resultRegs i s).rx = s.regs.rx
  · rw [hsame, hrx]
  · obtain ⟨-, hlit⟩ | ⟨hout, -⟩ := resultRegs_rx_writer hsame
    · exact hlit
    · exact absurd hout (not_or.2 ⟨hfire, hreset⟩)

theorem step_keeps_rx_lit {s t : State}
    (hkeep : s.input.rst = false ∧ ¬ ∃ v x a b d, s.fetch = .wdtFire v x a b d) (h : step s = .next t)
    (hrx : s.regs.rx = true) : t.regs.rx = true := by
  obtain ⟨hrst, hfire⟩ := hkeep
  obtain ⟨-, hexec⟩ := step_next_inv h
  obtain rfl := eq_commit_of_exec_next hexec
  refine resultRegs_keeps_rx_lit hfire ?_ hrx
  rintro ⟨e, m, v, x, a, b, d, hf⟩
  exact absurd (State.input_rst_of_fetch_eq_reset hf) (ne_true_of_eq_false hrst)

/-! ### The statements, from the rows, the selections and the effects -/

/-- Settles O20: an asserted edge in AWAIT_START_MARK fetches SM_MARK_BEGIN whatever the comparators say. -/
theorem assertedEdgeBeginsStartMark : Obligations.AssertedEdgeBeginsStartMark := by
  refine ⟨fun w => ?words, exec_smMarkBegin, fun s hc hrst hq hp hst => ?selected⟩
  case words =>
    exact (and_mask_eq_pattern_iff (r := ⟨"SM_MARK_BEGIN", 0x0A0#9, 0x1B8#9⟩) (by decide) w).trans
      (Instr.row_eq_smMarkBegin_iff _)
  case selected =>
    obtain ⟨m, a, b, d, hf⟩ := State.fetch_eq_smMarkBegin_iff.2 ⟨hrst, hq, hp, hst⟩
    rw [step_of_wf hc, hf, exec_smMarkBegin, hp]

/-- Settles O21: a deasserted edge in AWAIT_START_MARK fetches SM_IGNORE, and the state it writes is the one it is in. -/
theorem deassertedEdgeInStartIsIgnored : Obligations.DeassertedEdgeInStartIsIgnored := by
  refine ⟨fun w => ?words, exec_smIgnore, fun s hc hrst hq hp hst => ?selected⟩
  case words =>
    exact (and_mask_eq_pattern_iff (r := ⟨"SM_IGNORE", 0x080#9, 0x1B8#9⟩) (by decide) w).trans
      (Instr.row_eq_smIgnore_iff _)
  case selected =>
    obtain ⟨m, a, b, d, hf⟩ := State.fetch_eq_smIgnore_iff.2 ⟨hrst, hq, hp, hst⟩
    rw [step_of_wf hc, hf, exec_smIgnore, hp, ← hst]

/-- Settles O22: `gtL`, the strict comparison with `THR_LONG`, is what the row of SS_ACCEPT fixes. -/
theorem longEnoughMarkStartsFrame : Obligations.LongEnoughMarkStartsFrame := by
  refine ⟨fun w => ?words, exec_ssAccept, fun _ => State.fetch_eq_ssAccept_iff,
    fun s hc hrst hq hp hst hd => ?selected⟩
  case words =>
    exact (and_mask_eq_pattern_iff (r := ⟨"SS_ACCEPT", 0x08C#9, 0x1BC#9⟩) (by decide) w).trans
      (Instr.row_eq_ssAccept_iff _)
  case selected =>
    obtain ⟨m, b, d, hf⟩ := State.fetch_eq_ssAccept_iff.2 ⟨hrst, hq, hp, hst, hd⟩
    rw [step_of_wf hc, hf, exec_ssAccept, hp]

/-- Settles O23: the row of SS_RESYNC fixes `gtL` at 0, and each step of the run keeps the indicator lit. -/
theorem shortStartMarkResynchronises : Obligations.ShortStartMarkResynchronises := by
  refine ⟨fun w => ?words, exec_ssResync, fun _ => State.fetch_eq_ssResync_iff,
    fun s hc hrst hq hp hst hd => ?selected, fun n s t _ hrx hrun hkeep => ?lit⟩
  case words =>
    exact (and_mask_eq_pattern_iff (r := ⟨"SS_RESYNC", 0x088#9, 0x1BC#9⟩) (by decide) w).trans
      (Instr.row_eq_ssResync_iff _)
  case selected =>
    obtain ⟨m, b, d, hf⟩ := State.fetch_eq_ssResync_iff.2 ⟨hrst, hq, hp, hst, hd⟩
    rw [step_of_wf hc, hf, exec_ssResync, hp]
  case lit => exact runFor_keeps (P := fun u => u.regs.rx = true) (fun _ _ => step_keeps_rx_lit) hrun hkeep hrx

/-- Settles O25: an asserted edge in AWAIT_BIT_MARK fetches BM_MARK_BEGIN whatever the comparators say. -/
theorem assertedEdgeBeginsBitMark : Obligations.AssertedEdgeBeginsBitMark := by
  refine ⟨fun w => ?words, exec_bmMarkBegin, fun s hc hrst hq hp hst => ?selected⟩
  case words =>
    exact (and_mask_eq_pattern_iff (r := ⟨"BM_MARK_BEGIN", 0x0B0#9, 0x1B8#9⟩) (by decide) w).trans
      (Instr.row_eq_bmMarkBegin_iff _)
  case selected =>
    obtain ⟨m, a, b, d, hf⟩ := State.fetch_eq_bmMarkBegin_iff.2 ⟨hrst, hq, hp, hst⟩
    rw [step_of_wf hc, hf, exec_bmMarkBegin, hp]

/-- Settles O26: the two numbers determine the shifted accumulator and the incremented count, and since
`THR_SHORT < THR_LONG` the two classes of marks select the two operations. -/
theorem markLengthShiftsInABit : Obligations.MarkLengthShiftsInABit := by
  refine ⟨fun w => ⟨?words0, ?words1⟩, fun b m a s acc' cnt' hacc hcnt => ?effect,
    fun s hc hrst hq hp hst => ⟨fun hd => ?zero, fun hd hd' => ?one⟩⟩
  case words0 =>
    exact (and_mask_eq_pattern_iff (r := ⟨"BS_BIT0", 0x098#9, 0x1BB#9⟩) (by decide) w).trans (Instr.row_eq_bsBit0_iff _)
  case words1 =>
    exact (and_mask_eq_pattern_iff (r := ⟨"BS_BIT1", 0x099#9, 0x1BB#9⟩) (by decide) w).trans (Instr.row_eq_bsBit1_iff _)
  case effect =>
    obtain rfl : acc' = shiftedAcc s.regs.acc b := BitVec.eq_of_toNat_eq (by rw [hacc, shiftedAcc_toNat])
    obtain rfl : cnt' = countedBit s.regs.cnt := BitVec.eq_of_toNat_eq (by rw [hcnt, countedBit_toNat])
    have hexec : exec (if b then .bsBit1 m a else .bsBit0 m a) s = .next (s.commit (s.sampled.shiftIn b)) := by
      cases b with
      | false => exact exec_bsBit0 m a s
      | true => exact exec_bsBit1 m a s
    rw [hexec, Regs.shiftIn_eq]
    rfl
  case zero =>
    obtain ⟨-, hthr, -⟩ := (Config.wf_iff _).1 hc
    obtain ⟨m, a, hf⟩ := State.fetch_eq_bsBit0_iff.2 ⟨hrst, hq, hp, hst, hd.trans_lt hthr, hd⟩
    rw [step_of_wf hc, hf, exec_bsBit0]
  case one =>
    obtain ⟨m, a, hf⟩ := State.fetch_eq_bsBit1_iff.2 ⟨hrst, hq, hp, hst, hd', hd⟩
    rw [step_of_wf hc, hf, exec_bsBit1]

/-- Settles O27: `geL`, the non-strict comparison with `THR_LONG`, is what the row of BS_LONG fixes. -/
theorem overLongMarkAbandonsFrame : Obligations.OverLongMarkAbandonsFrame := by
  refine ⟨fun w => ?words, exec_bsLong, fun _ => State.fetch_eq_bsLong_iff,
    fun s hrst hq hp hst hS hL => ?oneTickLess, fun s hc hrst hq hp hst hd => ?selected⟩
  case words =>
    exact (and_mask_eq_pattern_iff (r := ⟨"BS_LONG", 0x09A#9, 0x1BA#9⟩) (by decide) w).trans (Instr.row_eq_bsLong_iff _)
  case oneTickLess => exact State.fetch_eq_bsBit1_iff.2 ⟨hrst, hq, hp, hst, Nat.lt_of_succ_le hL.le, hS⟩
  case selected =>
    obtain ⟨m, a, d, hf⟩ := State.fetch_eq_bsLong_iff.2 ⟨hrst, hq, hp, hst, hd⟩
    rw [step_of_wf hc, hf, exec_bsLong, hp]

/-- Settles O28: the common tail resets the count, and of the operations that write `run` only SM_MARK_BEGIN is an edge
operation. -/
theorem edgeOperationsResetTheTimer : Obligations.EdgeOperationsResetTheTimer := by
  intro i s hedge
  have htmr : (resultRegs i s).tmr.toNat = 0 :=
    (congrArg BitVec.toNat (resultRegs_tmr_of_isEdgeOp hedge)).trans BitVec.toNat_zero
  refine ⟨_, exec_eq_commit_resultRegs i s, htmr, or_iff_not_imp_left.2 fun hrun => ?_⟩
  obtain ⟨hbegin | ⟨_, _, _, _, _, _, _, rfl⟩, hset⟩ | ⟨⟨_, _, _, _, _, rfl⟩, -⟩ := resultRegs_run_writer hrun
  · exact ⟨hbegin, hset⟩
  · exact absurd hedge Bool.false_ne_true
  · exact absurd hedge Bool.false_ne_true

end Machine
end Sys2Proof
end

section
/-! SUPPORT. The watchdog (spec/42_watchdog.md): which words select WDT_FIRE, what it leaves in the registers, and the
step that fires (rules R47 and R95). -/
namespace Sys2Proof

theorem Instr.row_eq_wdtFire_iff (i : Instr) :
    i.row = ⟨"WDT_FIRE", 0x040#9, 0x1C0#9⟩ ↔ ∃ v x a b d, i = .wdtFire v x a b d := by
  cases i <;> simp [row]

namespace Machine

theorem exec_wdtFire (v : Bool) (x : DecoderState) (a b d : Bool) (s : State) :
    exec (.wdtFire v x a b d) s = .next (s.commit { s.regs with
      rx := false, code := 0, run := false, st := .sm, tmr := s.regs.duration, pinQ := s.input.pin }) := rfl

/-- At a compare match the duration operand is the window (rule R63). -/
theorem Regs.duration_eq_of_toNat_eq_wdtTicks {c : Config} {r : Regs c} (h : r.duration.toNat = c.wdtTicks) :
    r.duration = BitVec.ofNat c.wTmr c.wdtTicks := by
  rw [← h, BitVec.ofNat_toNat, BitVec.setWidth_eq]

/-- Settles O19: the words are those of the row, and a steady step with a compare match takes the `wdtFire` branch of
the step function, which stops the count at the window and keeps the level that `pin_q` already has. -/
theorem watchdogClearsCodeAndStopsTimer : Obligations.WatchdogClearsCodeAndStopsTimer := by
  refine ⟨fun w => ?words, exec_wdtFire, fun s hc hrst hpin hrun hd => ?fires⟩
  case words =>
    exact (and_mask_eq_pattern_iff (r := ⟨"WDT_FIRE", 0x040#9, 0x1C0#9⟩) (by decide) w).trans
      (Instr.row_eq_wdtFire_iff _)
  case fires =>
    rw [stepIsTheStepFunction s hc, Regs.pinStep_of_match hrst hpin ⟨hrun, hd⟩, hpin,
      ← Regs.duration_eq_of_toNat_eq_wdtTicks hd]
    rfl

end Machine
end Sys2Proof
end

section
/-! SUPPORT. The exceptions (spec/60_exceptions.md): the effect of `fsmError` in the operations that raise it (rule
R106), and the precedence of the events of a step (rule R113). -/
namespace Sys2Proof.Machine

/-! ### The effect of fsmError (rules R106 to R109) -/

theorem setsFault_eq_decide (k : ErrorKind) : setsFault k = decide (k = .violation ∨ k = .longMark) := by
  cases k <;> rfl

/-- An operation that raises an error does nothing but raise it (rule R105). -/
theorem resultRegs_of_errorKind {i : Instr} {k : ErrorKind} (h : i.errorKind = some k) (s : State) :
    resultRegs i s = s.sampled.fsmError k := by
  cases i with
  | ssResync | ssViol | bmViol | bsLong | bsViol =>
    cases h
    rfl
  | _ => cases h

/-- Settles O29: the operation leaves `fsmError` of its kind, which overwrites the count that the sampling advanced. -/
theorem fsmErrorEffect : Obligations.FsmErrorEffect := by
  intro i k s h
  rw [exec_eq_commit_resultRegs, resultRegs_of_errorKind h, Regs.fsmError, setsFault_eq_decide]
  rfl

/-! ### The precedence of the events of a step (rule R113) -/

/-- Settles O13: the clauses are the branches of the step function in order; at a tie of an edge and a compare match the
operand is the window, and the edge operation resets the count. -/
theorem eventPriority : Obligations.EventPriority := by
  intro s hc
  rw [stepIsTheStepFunction s hc, State.sampled_eq]
  refine ⟨fun hrst => ?reset, fun hrst hedge _ hd => ⟨?edge, Regs.edgeOp_tmr _ _ _⟩,
    fun hrst hpin hrun hd => ?fires, fun hrst hpin hm => ?idle⟩
  case reset => rw [Regs.pinStep_of_rst hrst]
  case edge => rw [Regs.pinStep_of_edge hrst hedge, Regs.duration_eq_of_toNat_eq_wdtTicks hd]
  case fires => rw [Regs.pinStep_of_match hrst hpin ⟨hrun, hd⟩]
  case idle =>
    have hno : ¬ (s.regs.run = true ∧ s.regs.duration.toNat = s.cfg.wdtTicks) :=
      not_and_or.2 (hm.imp_left ne_true_of_eq_false)
    rw [Regs.pinStep_of_idle hrst hpin hno]

end Sys2Proof.Machine
end

section
/-! SUPPORT. RESET (spec/70_reset_and_hazards.md): which words and which steps select it, and what it leaves in the
registers (rule R125). -/
namespace Sys2Proof

theorem Instr.row_eq_reset_iff (i : Instr) :
    i.row = ⟨"RESET", 0x100#9, 0x100#9⟩ ↔ ∃ e m v x a b d, i = .reset e m v x a b d := by
  cases i <;> simp [row]

namespace Machine

theorem exec_reset (e m v : Bool) (x : DecoderState) (a b d : Bool) (s : State) :
    exec (.reset e m v x a b d) s = .next (s.commit
      { st := .sm, acc := 0, cnt := 0, code := 0, rx := false, fault := false, tmr := 0, run := true,
        pinQ := s.input.pin }) := rfl

/-- The pattern of RESET fixes `rst` alone, so the edge detector and the timer only fill in its open fields. -/
theorem State.fetch_eq_reset_iff {s : State} : (∃ e m v x a b d, s.fetch = .reset e m v x a b d) ↔
    s.input.rst = true := by
  constructor
  · rintro ⟨e, m, v, x, a, b, d, hf⟩
    exact input_rst_of_fetch_eq_reset hf
  · intro hrst
    have hfields : s.regs.dispatchFields s.input = { s.regs.dispatchFields s.input with rst := true } := by
      rw [← hrst]
      rfl
    exact ⟨_, _, _, _, _, _, _, fetch_eq_iff.2 hfields⟩

/-- Settles O16: the words are those of the row, whose only fixed bit is `rst`, and RESET leaves the values of rule R125
in every register, so nothing of the old ones remains. -/
theorem resetSetsEveryRegister : Obligations.ResetSetsEveryRegister := by
  refine ⟨fun w => ?words, exec_reset, fun _ => State.fetch_eq_reset_iff, fun s hc hrst => ?selected⟩
  case words =>
    exact (and_mask_eq_pattern_iff (r := ⟨"RESET", 0x100#9, 0x100#9⟩) (by decide) w).trans (Instr.row_eq_reset_iff _)
  case selected =>
    obtain ⟨e, m, v, x, a, b, d, hf⟩ := State.fetch_eq_reset_iff.2 hrst
    rw [step_of_wf hc, hf, exec_reset]

end Machine
end Sys2Proof
end

section
/-! SUPPORT. The invariant of the reachable states (spec/10_state.md rule R24): it holds after a reset, each branch of
the step function of rule R60 keeps it, and what it excludes (rules R14, R51, R65 and R89). -/
namespace Sys2Proof.Machine

variable {c : Config} {r : Regs c}

/-! ### Registers that satisfy it -/

/-- Where the count is 0, items 2 and 3 of rule R24 hold, and only the state, the pin and the frame are left. -/
theorem Regs.inv_of_tmr_zero (hc : c.wf = true) (htmr : r.tmr = 0) (hstop : r.run = false → r.st = .sm)
    (hpin : (r.st = .ss → r.pinQ = false) ∧ (r.st = .bm → r.pinQ = true) ∧ (r.st = .bs → r.pinQ = false))
    (hcnt : r.cnt.toNat ≤ c.nbits) (hcode : r.code.toNat < 2 ^ c.nbits)
    (hframe : r.st = .bm ∨ r.st = .bs → r.cnt.toNat < c.nbits ∧ r.acc.toNat < 2 ^ r.cnt.toNat) : r.Inv := by
  have hzero : r.tmr.toNat = 0 := (congrArg BitVec.toNat htmr).trans BitVec.toNat_zero
  obtain ⟨hss, hbm, hbs⟩ := hpin
  obtain ⟨-, -, hwindow, -⟩ := (Config.wf_iff c).1 hc
  exact
    { stopped_awaits_start := hstop
      running_below_window := fun _ => by omega
      stopped_count := fun _ => .inr hzero
      startSpace_pin := hss
      bitMark_pin := hbm
      bitSpace_pin := hbs
      count_le := hcnt
      count_lt := fun h => (hframe h).1
      acc_lt := fun h => (hframe h).2
      code_lt := hcode }

theorem Regs.inv_of_await_start (hc : c.wf = true) (hst : r.st = .sm) (htmr : r.tmr = 0)
    (hcnt : r.cnt.toNat ≤ c.nbits) (hcode : r.code.toNat < 2 ^ c.nbits) : r.Inv :=
  inv_of_tmr_zero hc htmr (fun _ => hst) (by simp [hst]) hcnt hcode (by simp [hst])

theorem resetRegs_inv (p : Bool) (hc : c.wf = true) : (resetRegs c p).Inv :=
  Regs.inv_of_await_start hc rfl rfl (by simp [resetRegs]) (by simp [resetRegs])

/-- Settles O35: a RESET step leaves AWAIT_START_MARK with every count at 0, and so does `State.reset`. -/
theorem resetSatisfiesTheInvariant : Obligations.ResetSatisfiesTheInvariant :=
  ⟨⟨by decide, resetRegs_inv true (by decide)⟩, fun _ p hc => resetRegs_inv p hc⟩

/-! ### Nothing wraps (rules R65 and R89) -/

/-- The incremented count does not wrap, since `NBITS` fits it (rule R89 (b)). -/
theorem countedBit_toNat_of_lt {n : BitVec c.wCnt} (hc : c.wf = true) (h : n.toNat < c.nbits) :
    (countedBit n).toNat = n.toNat + 1 := by
  obtain ⟨-, -, -, -, -, hfits, -⟩ := (Config.wf_iff c).1 hc
  rw [countedBit_toNat, Nat.mod_eq_of_lt]
  have := Nat.two_pow_pos c.wCnt
  omega

/-- An accumulator of fewer than `NBITS` bits loses none in a shift, since `NBITS` fits it (rule R89 (a)). -/
theorem shiftedAcc_toNat_of_lt {a : BitVec c.wAcc} {k : Nat} (hc : c.wf = true) (hk : k < c.nbits)
    (ha : a.toNat < 2 ^ k) (b : Bool) : (shiftedAcc a b).toNat = 2 * a.toNat + b.toNat := by
  obtain ⟨-, -, -, -, -, -, hfits⟩ := (Config.wf_iff c).1 hc
  have hpow : 2 ^ (k + 1) ≤ 2 ^ c.wAcc := Nat.pow_le_pow_right two_pos (hk.trans_le hfits)
  have hb := b.toNat_le
  rw [shiftedAcc_toNat, Nat.mod_eq_of_lt]
  rw [Nat.pow_succ] at hpow
  omega

/-- The value of one more bit has at most one more digit (rule R89 (a)). -/
theorem shiftedAcc_toNat_lt {a : BitVec c.wAcc} {k : Nat} (hc : c.wf = true) (hk : k < c.nbits)
    (ha : a.toNat < 2 ^ k) (b : Bool) : (shiftedAcc a b).toNat < 2 ^ (k + 1) := by
  have hb := b.toNat_le
  rw [shiftedAcc_toNat_of_lt hc hk ha, Nat.pow_succ]
  omega

/-- Settles O39: the window, `NBITS` and the accumulator's bound keep each sum below its register's width. -/
theorem nothingWrapsWhereTheInvariantHolds : Obligations.NothingWrapsWhereTheInvariantHolds := by
  intro c r hc h
  refine ⟨fun hrun => ?_, fun hst b => ?_⟩
  · have hlt := h.running_below_window hrun
    have hd := Regs.duration_toNat_running hc hrun hlt
    exact ⟨hd, hd.trans_le hlt⟩
  · have hlt := h.count_lt (.inr hst)
    exact ⟨shiftedAcc_toNat_of_lt hc hlt (h.acc_lt (.inr hst)) b, countedBit_toNat_of_lt hc hlt⟩

/-! ### Every step keeps it -/

/-- Outside AWAIT_START_MARK the timer runs (rule R24 item 1). -/
theorem Regs.Inv.run_of_ne_sm (h : r.Inv) (hst : r.st ≠ .sm) : r.run = true :=
  Bool.eq_true_of_not_eq_false fun hno => hst (h.stopped_awaits_start hno)

/-- An error abandons the frame, whatever its kind (rule R106). -/
theorem Regs.Inv.fsmError (hc : c.wf = true) (h : r.Inv) (p : Bool) (k : ErrorKind) :
    ((r.sample p).fsmError k).Inv :=
  inv_of_await_start hc rfl rfl h.count_le h.code_lt

/-- A shift counts one bit more, and publishes a value of exactly `NBITS` bits (rule R86). -/
theorem Regs.inv_shiftIn (hc : c.wf = true) (hrun : r.run = true) (hpin : r.pinQ = true) (hcnt : r.cnt.toNat < c.nbits)
    (hacc : r.acc.toNat < 2 ^ r.cnt.toNat) (hcode : r.code.toNat < 2 ^ c.nbits) (b : Bool) : (r.shiftIn b).Inv := by
  have hcnt' := countedBit_toNat_of_lt hc hcnt
  have hacc' := shiftedAcc_toNat_lt hc hcnt hacc b
  rw [← hcnt'] at hacc'
  by_cases hlast : (countedBit r.cnt).toNat = c.nbits
  · rw [shiftIn_last hlast]
    exact inv_of_await_start hc rfl rfl hlast.le (hlast ▸ hacc')
  · have hlt : (countedBit r.cnt).toNat < c.nbits := by omega
    rw [shiftIn_more hlast]
    exact inv_of_tmr_zero hc rfl (by simp [hrun]) (by simp [hpin]) hlt.le hcode fun _ => ⟨hlt, hacc'⟩

/-- The edges of the pin lead from state to state with the levels of item 4: an asserted one to SS and BS, a deasserted
one to BM. -/
theorem Regs.Inv.edgeOp (hc : c.wf = true) (h : r.Inv) (p : Bool) (d : BitVec c.wTmr) :
    ((r.sample p).edgeOp (!p) d).Inv := by
  obtain ⟨-, -, -, -, hnbits, -⟩ := (Config.wf_iff c).1 hc
  unfold Regs.edgeOp
  cases hst : (r.sample p).st with
  | sm =>
    cases p with
    | true => exact inv_of_await_start hc rfl rfl h.count_le h.code_lt
    | false => exact inv_of_tmr_zero hc rfl nofun ⟨fun _ => rfl, nofun, nofun⟩ h.count_le h.code_lt nofun
  | ss =>
    cases p with
    | true =>
      have hstop : r.run = false → DecoderState.bm = .sm := by simp [h.run_of_ne_sm (hst ▸ nofun)]
      simp only [Bool.not_true, Bool.false_eq_true, if_false]
      split_ifs
      · exact inv_of_tmr_zero hc rfl hstop ⟨nofun, fun _ => rfl, nofun⟩ (by simp [ssAccept]) h.code_lt
          fun _ => ⟨by simpa [ssAccept] using Nat.lt_of_succ_le hnbits, by simp [ssAccept]⟩
      · exact h.fsmError hc _ _
    | false => exact h.fsmError hc _ _
  | bm =>
    cases p with
    | true => exact h.fsmError hc _ _
    | false =>
      have hstop : r.run = false → DecoderState.bs = .sm := by simp [h.run_of_ne_sm (hst ▸ nofun)]
      exact inv_of_tmr_zero hc rfl hstop ⟨nofun, nofun, fun _ => rfl⟩ h.count_le h.code_lt
        fun _ => ⟨h.count_lt (.inl hst), h.acc_lt (.inl hst)⟩
  | bs =>
    cases p with
    | true =>
      have hshift : ∀ b, ((r.sample true).shiftIn b).Inv :=
        inv_shiftIn hc (h.run_of_ne_sm (hst ▸ nofun)) rfl (h.count_lt (.inr hst)) (h.acc_lt (.inr hst)) h.code_lt
      simp only [Bool.not_true, Bool.false_eq_true, if_false]
      split_ifs
      · exact h.fsmError hc _ _
      · exact hshift true
      · exact hshift false
    | false => exact h.fsmError hc _ _

/-- WDT_FIRE stops the count at the window (rule R95). -/
theorem Regs.Inv.wdtFire (h : r.Inv) (p : Bool) (hd : r.duration.toNat = c.wdtTicks) : (r.sample p).wdtFire.Inv where
  stopped_awaits_start _ := rfl
  running_below_window := nofun
  stopped_count _ := .inl hd
  startSpace_pin := nofun
  bitMark_pin := nofun
  bitSpace_pin := nofun
  count_le := h.count_le
  count_lt := nofun
  acc_lt := nofun
  code_lt := by simp [Regs.wdtFire]

/-- Without a compare match a running count stays below the window, and a stopped one holds (rule R66). -/
theorem Regs.Inv.idle (hc : c.wf = true) (h : r.Inv) (hm : ¬ (r.run = true ∧ r.duration.toNat = c.wdtTicks)) :
    (r.sample r.pinQ).Inv :=
  { h with
    running_below_window := fun (hrun : r.run = true) => by
      have hlt := h.running_below_window hrun
      have hd := duration_toNat_running hc hrun hlt
      have hne : r.duration.toNat ≠ c.wdtTicks := fun heq => hm ⟨hrun, heq⟩
      rw [sample_tmr]
      omega
    stopped_count := fun (hrun : r.run = false) => by
      rw [sample_tmr, duration_stopped hrun]
      exact h.stopped_count hrun }

theorem Regs.Inv.pinStep (hc : c.wf = true) (h : r.Inv) (i : Input) : (r.pinStep i).Inv := by
  cases hrst : i.rst with
  | true =>
    rw [pinStep_of_rst hrst]
    exact resetRegs_inv _ hc
  | false =>
    by_cases hpin : i.pin = r.pinQ
    · by_cases hm : r.run = true ∧ r.duration.toNat = c.wdtTicks
      · rw [pinStep_of_match hrst hpin hm]
        exact h.wdtFire _ hm.2
      · rw [pinStep_of_idle hrst hpin hm, hpin]
        exact h.idle hc hm
    · rw [pinStep_of_edge hrst hpin]
      exact h.edgeOp hc _ _

/-- Settles O36: the step is that of rule R60, and each of its branches keeps the invariant. -/
theorem everyStepKeepsTheInvariant : Obligations.EveryStepKeepsTheInvariant := by
  intro s h
  exact ⟨_, stepIsTheStepFunction s h.cfg_wf, h.cfg_wf, h.regs_inv.pinStep h.cfg_wf _⟩

/-! ### What it excludes -/

theorem State.fetch_eq_ssViol_iff {s : State} : (∃ m a b d, s.fetch = .ssViol m a b d) ↔
    s.input.rst = false ∧ s.regs.pinQ = true ∧ s.input.pin = false ∧ s.regs.st = .ss := by
  simp [fetch_eq_iff, Regs.dispatchFields, Instr.fields, asserted_edge_and_iff]

theorem State.fetch_eq_bmViol_iff {s : State} : (∃ m a b d, s.fetch = .bmViol m a b d) ↔
    s.input.rst = false ∧ s.regs.pinQ = false ∧ s.input.pin = true ∧ s.regs.st = .bm := by
  simp [fetch_eq_iff, Regs.dispatchFields, Instr.fields, deasserted_edge_and_iff]

theorem State.fetch_eq_bsViol_iff {s : State} : (∃ m a b d, s.fetch = .bsViol m a b d) ↔
    s.input.rst = false ∧ s.regs.pinQ = true ∧ s.input.pin = false ∧ s.regs.st = .bs := by
  simp [fetch_eq_iff, Regs.dispatchFields, Instr.fields, asserted_edge_and_iff]

/-- Settles O38: each wrong-polarity operation needs the level of `pin_q` that item 4 excludes in its state. -/
theorem wrongPolarityIsUnreachableThroughThePin : Obligations.WrongPolarityIsUnreachableThroughThePin := by
  rintro s ⟨-, h⟩ hviol
  cases hf : s.fetch with
  | ssViol =>
    obtain ⟨-, hq, -, hst⟩ := State.fetch_eq_ssViol_iff.1 ⟨_, _, _, _, hf⟩
    simp [h.startSpace_pin hst] at hq
  | bmViol =>
    obtain ⟨-, hq, -, hst⟩ := State.fetch_eq_bmViol_iff.1 ⟨_, _, _, _, hf⟩
    simp [h.bitMark_pin hst] at hq
  | bsViol =>
    obtain ⟨-, hq, -, hst⟩ := State.fetch_eq_bsViol_iff.1 ⟨_, _, _, _, hf⟩
    simp [h.bitSpace_pin hst] at hq
  | _ => simp [hf, Instr.errorKind] at hviol

theorem Regs.getCode_toNat (r : Regs c) (hw : c.wAcc ≤ 16) : r.getCode.toNat = r.code.toNat :=
  BitVec.toNat_setWidth_of_le hw

/-- Settles O40: the port shows the whole code register, which item 6 bounds. -/
theorem codePortBitFifteenIsZero : Obligations.CodePortBitFifteenIsZero := by
  rintro s ⟨-, h⟩ hw
  have hlt : s.regs.getCode.toNat < 2 ^ s.cfg.nbits := by
    rw [Regs.getCode_toNat _ hw]
    exact h.code_lt
  refine ⟨hlt, fun hn => ?_⟩
  have hlt15 : s.regs.getCode.toNat < 2 ^ 15 := hlt.trans_le (Nat.pow_le_pow_right two_pos hn)
  exact Nat.testBit_lt_two_pow hlt15

/-- A step leaves a stopped timer only by WDT_FIRE, which clears what the reader sees, or where the timer was stopped
before an IDLE or an SM_IGNORE, which do not touch it (rules R66, R78 and R95). -/
theorem Regs.Inv.pinStep_released (h : r.Inv) (hrel : r.ReleasedWhenStopped) (i : Input) :
    (r.pinStep i).ReleasedWhenStopped := by
  cases hrst : i.rst with
  | true =>
    rw [pinStep_of_rst hrst]
    exact nofun
  | false =>
    by_cases hpin : i.pin = r.pinQ
    · by_cases hm : r.run = true ∧ r.duration.toNat = c.wdtTicks
      · rw [pinStep_of_match hrst hpin hm]
        exact fun _ => ⟨rfl, rfl⟩
      · rw [pinStep_of_idle hrst hpin hm]
        exact hrel
    · rw [pinStep_of_edge hrst hpin]
      intro hstop
      obtain ⟨hno, hrun⟩ := not_or.1 (mt (edgeOp_run_iff _ _ _).2 (ne_true_of_eq_false hstop))
      have hrun : r.run = false := Bool.eq_false_of_not_eq_true hrun
      have hst : (r.sample i.pin).st = .sm := h.stopped_awaits_start hrun
      have hlvl : (!i.pin) = false := Bool.eq_false_of_not_eq_true fun hlvl => hno ⟨hlvl, hst⟩
      rw [hlvl, Regs.edgeOp, hst]
      exact hrel hrun

/-- Settles O37: the step is that of rule R60, whose only way to stop the timer is WDT_FIRE. -/
theorem stoppedTimerMeansReleased : Obligations.StoppedTimerMeansReleased := by
  refine ⟨nofun, fun s t h hrel hstep => ?_⟩
  obtain rfl := Host.Outcome.next.inj ((stepIsTheStepFunction s h.cfg_wf).symm.trans hstep)
  exact h.regs_inv.pinStep_released hrel _

end Sys2Proof.Machine
end

section
/-! SUPPORT. Operations and words (spec/30_encoding.md): decoding is the inverse of encoding, which fields a step can
form (rule R50), and the placement of a word (log entry 5). -/
namespace Sys2Proof

/-! ### Encoding (rules R11, R45 and R49) -/

theorem decode_encode (i : Instr) : decode (encode i) = i := by
  rw [encode, decode_pack, Instr.fields_select]

/-- Settles O2: an operation and the fields of its word determine each other, and so do the fields and the word. -/
theorem decodeAndEncodeAgree : Obligations.DecodeAndEncodeAgree :=
  ⟨decode_encode, encode_decode⟩

/-- Settles O1: `decode` evaluates on each of the fifteen words. -/
theorem specWordsDecodeToTheirOperations : Obligations.SpecWordsDecodeToTheirOperations := by
  unfold Obligations.SpecWordsDecodeToTheirOperations
  decide

/-- Settles O4: the codes are the definition's, and each of the four is read back. -/
theorem stateCodesAreAsListed : Obligations.StateCodesAreAsListed :=
  ⟨rfl, rfl, rfl, rfl, DecoderState.bits_ofBits⟩

namespace Machine

/-! ### The configuration (rules R5 and R6) -/

/-- Settles O11: at 2 MHz every µs value is a whole number of ticks. -/
theorem referenceParameters : Obligations.ReferenceParameters := by
  unfold Obligations.ReferenceParameters
  decide

theorem step_eq_refused_iff {s : State} : step s = .refused .badConfig ↔ ¬ s.cfg.wf = true := by
  cases hc : s.cfg.wf with
  | false => simp [step_of_not_wf hc]
  | true => simp [step_of_wf hc, exec_eq_commit_resultRegs]

/-- Settles O10: the step refuses where `wf` fails, and `wf` is rule R6. -/
theorem brokenConfigurationIsRefused : Obligations.BrokenConfigurationIsRefused :=
  ⟨by decide, fun s => step_eq_refused_iff.trans (not_congr (Config.wf_iff s.cfg))⟩

/-- Settles O9: `fetch` is the decoded dispatch word. -/
theorem stepRunsTheDecodedOperation : Obligations.StepRunsTheDecodedOperation :=
  fun _ => step_of_wf

/-! ### The fields a step forms (rules R48 and R50) -/

theorem State.fetch_fields (s : State) : s.fetch.fields = s.regs.dispatchFields s.input := by
  rw [State.fetch_eq_select, Fields.select_fields]

theorem Fields.formable_iff {f : Fields} : f.formable = true ↔
    (f.gtL = true → f.geL = true) ∧ (f.geL = true → f.gtS = true) ∧ (f.cm = true → f.gtL = true) := by
  simp [Fields.formable, and_assoc, imp_iff_not_or]

theorem Regs.dispatchFields_formable {c : Config} (r : Regs c) (i : Input) (hc : c.wf = true) :
    (r.dispatchFields i).formable = true := by
  obtain ⟨-, hthr, hwindow, -⟩ := (Config.wf_iff c).1 hc
  simp only [Fields.formable_iff, dispatchFields, gtLong, geLong, gtShort, compareMatch, Bool.and_eq_true,
    decide_eq_true_eq]
  omega

/-- Settles O7: the three thresholds compare one duration, and the window exceeds `THR_LONG`. -/
theorem impossibleCodesAreNeverFormed : Obligations.ImpossibleCodesAreNeverFormed := by
  intro s hc
  rw [State.fetch_fields]
  exact Regs.dispatchFields_formable _ _ hc

/-! ### The placement of a word (log entry 5) -/

/-- Fields that a compare match and each comparator carry upwards are formable. -/
theorem formable_of_carried (r e m v : Bool) (x : DecoderState) (a b d : Bool) :
    (Fields.mk r e m v x (m || a) (m || a || b) (m || a || b || d)).formable = true :=
  Fields.formable_iff.2 (by simp +contextual)

/-- Formable fields carry a compare match and each comparator upwards already. -/
theorem carried_of_formable {r e m v : Bool} {x : DecoderState} {a b d : Bool}
    (h : (Fields.mk r e m v x a b d).formable = true) : (m || a) = a ∧ (a || b) = b ∧ (b || d) = d := by
  obtain ⟨hab, hbd, hma⟩ := Fields.formable_iff.1 h
  simpa using ⟨hma, hab, hbd⟩

theorem nearest_formable (i : Instr) : (nearest i).fields.formable = true := by
  cases i with
  | reset | smMarkBegin | smIgnore | ssViol | bmMarkBegin | bmViol | bsViol => exact formable_of_carried ..
  | idle v x a b d => exact formable_of_carried _ _ false _ _ a b d
  | ssResync m b d => exact formable_of_carried _ _ false _ _ false b d
  | ssAccept m | bsLong m => cases m <;> simp [nearest, Instr.fields, Fields.formable]
  | wdtFire | bsBit0 | bsBit1 => rfl

theorem nearest_row (i : Instr) : (nearest i).row = i.row := by
  cases i <;> rfl

theorem nearest_of_formable {i : Instr} (h : i.fields.formable = true) : nearest i = i := by
  cases i with
  | wdtFire | ssAccept | ssResync | bsBit0 | bsBit1 | bsLong =>
    obtain ⟨hab, hbd, hma⟩ := Fields.formable_iff.1 h
    simp_all [Instr.fields, nearest]
  | _ =>
    obtain ⟨hma, hab, hbd⟩ := carried_of_formable h
    simp [nearest, hma, hab, hbd]

theorem decodeTableWord_toNat (w : DispatchWord) : decodeTableWord 16 w.toNat = some (decode w) := by
  have hw : w.toNat < 512 := w.isLt
  simp [decodeTableWord, decodeNat, Nat.mod_eq_of_lt (hw.trans (by decide : 512 < 65536)), hw, Except.toOption]

theorem State.withFetchWord_toNat (s : State) (w : DispatchWord) :
    s.withFetchWord 16 w.toNat = s.forcing (nearest (decode w)).fields := by
  rw [withFetchWord, decodeTableWord_toNat]

/-- A duration to be placed is positive and at most the window (rules R6 and R48). -/
theorem durationOf_pos_and_le {c : Config} (hc : c.wf = true) (f : Fields) :
    1 ≤ durationOf c f ∧ durationOf c f ≤ c.wdtTicks := by
  obtain ⟨hshort, hthr, hwindow, -⟩ := (Config.wf_iff c).1 hc
  unfold durationOf
  split_ifs <;> omega

/-- The duration to be placed is of the class that formable fields name, and is the window only at a compare match. -/
theorem durationOf_classes {c : Config} (hc : c.wf = true) (hcl : c.classesInhabited = true) {f : Fields}
    (hf : f.formable = true) :
    (durationOf c f = c.wdtTicks ↔ f.cm = true) ∧ (durationOf c f > c.thrLong ↔ f.gtL = true)
      ∧ (durationOf c f ≥ c.thrLong ↔ f.geL = true) ∧ (durationOf c f > c.thrShort ↔ f.gtS = true) := by
  obtain ⟨hshort, hthr, hwindow, -⟩ := (Config.wf_iff c).1 hc
  obtain ⟨hbit1, hlong⟩ : c.thrShort + 1 < c.thrLong ∧ c.thrLong + 1 < c.wdtTicks := by
    simpa [Config.classesInhabited] using hcl
  obtain ⟨hab, hbd, hma⟩ := Fields.formable_iff.1 hf
  unfold durationOf
  split_ifs with hm ha hb hd <;> simp_all <;> omega

theorem State.forcing_duration {s : State} (hc : s.cfg.wf = true) (f : Fields) :
    (s.forcing f).regs.duration.toNat = durationOf s.cfg f := by
  obtain ⟨hpos, hle⟩ := durationOf_pos_and_le hc f
  have hfits := ((Config.wf_iff s.cfg).1 hc).2.2.2.1
  have hlt : durationOf s.cfg f - 1 < s.cfg.wdtTicks := by omega
  have htmr : (s.forcing f).regs.tmr.toNat = durationOf s.cfg f - 1 :=
    (BitVec.toNat_ofNat _ _).trans (Nat.mod_eq_of_lt (hlt.trans hfits))
  have hd := Regs.duration_toNat_running (r := (s.forcing f).regs) hc rfl (htmr.trans_lt hlt)
  omega

/-- `State.forcing` makes the next step form the fields it is given, if any step can. -/
theorem State.forcing_dispatchFields {s : State} (hc : s.cfg.wf = true) (hcl : s.cfg.classesInhabited = true)
    {f : Fields} (hf : f.formable = true) : (s.forcing f).regs.dispatchFields (s.forcing f).input = f := by
  obtain ⟨hm, ha, hb, hd⟩ := durationOf_classes hc hcl hf
  rw [← forcing_duration hc] at hm ha hb hd
  have hedge : edgeDetect ((!f.lvl) != f.edge) (!f.lvl) = f.edge := by
    cases f.lvl <;> cases f.edge <;> rfl
  calc (s.forcing f).regs.dispatchFields (s.forcing f).input
      = { rst := f.rst
          edge := edgeDetect ((!f.lvl) != f.edge) (!f.lvl)
          cm := decide ((s.forcing f).regs.duration.toNat = s.cfg.wdtTicks)
          lvl := !!f.lvl
          st := f.st
          gtL := decide ((s.forcing f).regs.duration.toNat > s.cfg.thrLong)
          geL := decide ((s.forcing f).regs.duration.toNat ≥ s.cfg.thrLong)
          gtS := decide ((s.forcing f).regs.duration.toNat > s.cfg.thrShort) } := rfl
    _ = f := by simp only [hedge, hm, ha, hb, hd, Bool.decide_eq_true, Bool.not_not]

/-- Settles O8: the word's operation, moved to the nearest formable fields, is what `State.forcing` makes the next step
fetch. -/
theorem placedWordIsTheNextOperation : Obligations.PlacedWordIsTheNextOperation := by
  intro s w hc hcl
  rw [State.withFetchWord_toNat]
  have hfetch : (s.forcing (nearest (decode w)).fields).fetch = nearest (decode w) :=
    State.fetch_eq_iff.2 (State.forcing_dispatchFields hc hcl (nearest_formable _))
  refine ⟨hfetch, ?_, nearest_row _, nearest_of_formable⟩
  rw [step_of_wf (s := s.forcing _) hc, hfetch]

end Machine
end Sys2Proof
end

section
/-! SUPPORT. What one step shows outside: the sampled pin (rule R61), the wrong-polarity operations (rules R81, R83 and
R88), the indicators (rules R15 and R16) and the code port (rules R21, R101 and R102). -/
namespace Sys2Proof

/-! ### The edge operations among the words (rule R61) -/

/-- An edge operation is one whose pattern fixes `edge` at 1 and `rst` at 0 (rule R49). -/
theorem Instr.isEdgeOp_eq_fields (i : Instr) : i.isEdgeOp = (!i.fields.rst && i.fields.edge) := by
  cases i <;> rfl

theorem Instr.row_eq_ssViol_iff (i : Instr) :
    i.row = ⟨"SS_VIOL", 0x0A8#9, 0x1B8#9⟩ ↔ ∃ m a b d, i = .ssViol m a b d := by
  cases i <;> simp [row]

theorem Instr.row_eq_bmViol_iff (i : Instr) :
    i.row = ⟨"BM_VIOL", 0x090#9, 0x1B8#9⟩ ↔ ∃ m a b d, i = .bmViol m a b d := by
  cases i <;> simp [row]

theorem Instr.row_eq_bsViol_iff (i : Instr) :
    i.row = ⟨"BS_VIOL", 0x0B8#9, 0x1B8#9⟩ ↔ ∃ m a b d, i = .bsViol m a b d := by
  cases i <;> simp [row]

namespace Machine

variable {c : Config}

@[simp] theorem State.fetch_fields_rst (s : State) : s.fetch.fields.rst = s.input.rst := by
  rw [fetch_fields]
  rfl

theorem State.fetch_isEdgeOp_iff {s : State} :
    s.fetch.isEdgeOp = true ↔ s.input.rst = false ∧ s.input.pin ≠ s.regs.pinQ := by
  rw [Instr.isEdgeOp_eq_fields, fetch_fields]
  simp [Regs.dispatchFields, edgeDetect]

/-- The registers of the next state are those of the fetched operation. -/
theorem step_eq_commit_resultRegs {s : State} (hc : s.cfg.wf = true) :
    step s = .next (s.commit (resultRegs s.fetch s)) := by
  rw [step_of_wf hc, exec_eq_commit_resultRegs]

/-- Settles O14: the word's fields say whether the fetched operation is an edge operation, and which polarity it has. -/
theorem edgeDetectorSamplesEveryStep : Obligations.EdgeDetectorSamplesEveryStep := by
  intro s hc
  refine ⟨_, step_eq_commit_resultRegs hc, resultRegs_pinQ _ _, State.fetch_isEdgeOp_iff, ?_⟩
  rw [State.fetch_fields]
  rfl

/-! ### The wrong polarity (rules R81, R83 and R88) -/

theorem Regs.edgeOp_asserted_of_ss_or_bs {r : Regs c} (d : BitVec c.wTmr) (h : r.st = .ss ∨ r.st = .bs) :
    r.edgeOp true d = { r with fault := true, tmr := 0, st := .sm } := by
  rw [← fsmError_of_setsFault r (k := .violation) rfl, edgeOp]
  obtain hst | hst := h
  · rw [hst]; rfl
  · rw [hst]; rfl

theorem Regs.edgeOp_deasserted_of_bm {r : Regs c} (d : BitVec c.wTmr) (h : r.st = .bm) :
    r.edgeOp false d = { r with fault := true, tmr := 0, st := .sm } := by
  rw [← fsmError_of_setsFault r (k := .violation) rfl, edgeOp, h]
  rfl

/-- Settles O24: each of the three operations is an `fsmError` of the kind VIOLATION and nothing else. -/
theorem wrongPolarityIsAViolation : Obligations.WrongPolarityIsAViolation := by
  refine ⟨fun w => ⟨?ss, ?bm, ?bs⟩, fun m a b d s => ?effect, fun c r d => ⟨?asserted, ?deasserted⟩⟩
  case ss =>
    exact (and_mask_eq_pattern_iff (r := ⟨"SS_VIOL", 0x0A8#9, 0x1B8#9⟩) (by decide) w).trans (Instr.row_eq_ssViol_iff _)
  case bm =>
    exact (and_mask_eq_pattern_iff (r := ⟨"BM_VIOL", 0x090#9, 0x1B8#9⟩) (by decide) w).trans (Instr.row_eq_bmViol_iff _)
  case bs =>
    exact (and_mask_eq_pattern_iff (r := ⟨"BS_VIOL", 0x0B8#9, 0x1B8#9⟩) (by decide) w).trans (Instr.row_eq_bsViol_iff _)
  case effect =>
    have hviol := Regs.fsmError_of_setsFault s.sampled (k := .violation) rfl
    simp only [exec_eq_commit_resultRegs, resultRegs, Regs.ssViol, Regs.bmViol, Regs.bsViol, hviol]
    exact ⟨rfl, rfl, rfl⟩
  case asserted => exact Regs.edgeOp_asserted_of_ss_or_bs d
  case deasserted => exact Regs.edgeOp_deasserted_of_bm d

/-- Settles O52: an event is the edge operation itself, and the wrong polarity selects a VIOLATION. -/
theorem eventLevelWrongPolarityKeepsCode : Obligations.EventLevelWrongPolarityKeepsCode := by
  refine fun c r d => ⟨fun h => ?_, fun h => ?_⟩
  · rw [Regs.event, Regs.edgeOp_asserted_of_ss_or_bs _ h]
    exact ⟨rfl, rfl, rfl, rfl⟩
  · rw [Regs.event, Regs.edgeOp_deasserted_of_bm _ h]
    exact ⟨rfl, rfl, rfl, rfl⟩

/-! ### The indicators (rules R15 and R16) -/

theorem Regs.ledFaultN_eq_false_iff {r : Regs c} : r.ledFaultN = false ↔ r.fault = true := by
  rw [ledFaultN, Bool.not_eq_false']

theorem Regs.ledRxN_eq_false_iff {r : Regs c} : r.ledRxN = false ↔ r.rx = true := by
  rw [ledRxN, Bool.not_eq_false']

/-- RESET clears `fault`, an error ors in what its kind says, and no other operation writes it (rule R16). -/
theorem resultRegs_fault (i : Instr) (s : State) : (resultRegs i s).fault =
    (!i.fields.rst && (s.regs.fault || (i.errorKind.map setsFault).getD false)) := by
  cases i with
  | reset | ssResync | ssViol | bmViol | bsLong | bsViol => rfl
  | bsBit0 | bsBit1 => exact (Regs.shiftIn_fault _ _).trans (Bool.or_false _).symm
  | _ => exact (Bool.or_false _).symm

/-- The kinds that set `fault` are VIOLATION and LONG_MARK (rules R107 to R109). -/
theorem setsFault_getD_iff {k : Option ErrorKind} :
    (k.map setsFault).getD false = true ↔ k = some .violation ∨ k = some .longMark := by
  cases k with
  | none => simp
  | some k => cases k <;> simp [setsFault]

/-- Settles O31: the fault flag of the fetched operation, which is a RESET exactly when `rst` is 1. -/
theorem faultIsLatchedUntilReset : Obligations.FaultIsLatchedUntilReset := by
  intro s hc
  refine ⟨_, step_eq_commit_resultRegs hc, ?_⟩
  rw [Regs.ledFaultN_eq_false_iff, Regs.ledFaultN_eq_false_iff, State.commit_regs, resultRegs_fault,
    State.fetch_fields_rst, Bool.and_eq_true, Bool.not_eq_true', Bool.or_eq_true, setsFault_getD_iff]

/-- A lit receiving indicator after an operation was lit by an SS_ACCEPT, or before an operation that is no WDT_FIRE and
no RESET (rule R15). -/
theorem resultRegs_rx_iff {i : Instr} {s : State} : (resultRegs i s).rx = true ↔ (∃ m b d, i = .ssAccept m b d)
    ∨ (s.regs.rx = true ∧ i.fields.rst = false ∧ ¬ ∃ v x a b d, i = .wdtFire v x a b d) := by
  cases i with
  | ssAccept => exact iff_of_true rfl (.inl ⟨_, _, _, rfl⟩)
  | reset => exact iff_of_false nofun nofun
  | wdtFire => exact iff_of_false nofun (by rintro (⟨_, _, _, hf⟩ | ⟨-, -, hno⟩) <;> simp_all)
  | bsBit0 | bsBit1 =>
    have hkeep : ∀ b, (s.sampled.shiftIn b).rx = s.regs.rx := fun _ => Regs.shiftIn_rx _ _
    exact ⟨fun h => .inr ⟨(hkeep _).symm.trans h, rfl, nofun⟩, fun h => h.elim nofun fun h => (hkeep _).trans h.1⟩
  | _ => exact ⟨fun h => .inr ⟨h, rfl, nofun⟩, fun h => h.elim nofun And.left⟩

/-- Settles O32: the receiving flag of the fetched operation, which is a RESET exactly when `rst` is 1. -/
theorem receivingIndicatorFollowsStartMarkAndWatchdog : Obligations.ReceivingIndicatorFollowsStartMarkAndWatchdog := by
  intro s hc
  refine ⟨_, step_eq_commit_resultRegs hc, ?_⟩
  rw [Regs.ledRxN_eq_false_iff, Regs.ledRxN_eq_false_iff, State.commit_regs, resultRegs_rx_iff,
    State.fetch_fields_rst]

/-! ### The code port (rules R21, R101 and R102) -/

/-- Settles O33: `ports` is that record, and a register of at most sixteen bits is shown whole. -/
theorem portsShowTheRegisters : Obligations.PortsShowTheRegisters :=
  fun _ r => ⟨rfl, rfl, r.getCode_toNat⟩

/-- The operations that may write `code` are those of `writesCode`, the shift on the bit that completes the frame. -/
theorem State.writesCode_of_code_ne {s : State} (h : (resultRegs s.fetch s).code.toNat ≠ s.regs.code.toNat) :
    s.writesCode = true := by
  have hcnt : ∀ b, (s.sampled.shiftIn b).cnt = countedBit s.regs.cnt := fun _ => Regs.shiftIn_cnt _ _
  obtain ⟨⟨_, _, _, _, _, _, _, hf⟩ | ⟨_, _, _, _, _, hf⟩, -⟩ | ⟨⟨_, _, hf⟩ | ⟨_, _, hf⟩, hlast, -⟩ :=
    resultRegs_code_writer h
  · rw [writesCode, hf]
  · rw [writesCode, hf]
  · rw [hf, resultRegs, Regs.bsBit0, hcnt] at hlast
    simpa [writesCode, hf] using hlast
  · rw [hf, resultRegs, Regs.bsBit1, hcnt] at hlast
    simpa [writesCode, hf] using hlast

theorem step_keeps_getCode {s t : State} (hw : s.writesCode = false) (h : step s = .next t) :
    t.regs.getCode = s.regs.getCode := by
  obtain ⟨-, hexec⟩ := step_next_inv h
  obtain rfl := eq_commit_of_exec_next hexec
  have hcode : (resultRegs s.fetch s).code.toNat = s.regs.code.toNat :=
    not_imp_comm.1 State.writesCode_of_code_ne (ne_true_of_eq_false hw)
  exact congrArg (BitVec.setWidth 16) (BitVec.eq_of_toNat_eq hcode)

/-- Settles O34: each step of the run keeps the port. -/
theorem codePortIsStableBetweenWrites : Obligations.CodePortIsStableBetweenWrites := by
  intro n s t hrun hw
  exact runFor_keeps (P := fun u => u.regs.getCode = s.regs.getCode)
    (fun _ _ hQ hstep hP => (step_keeps_getCode hQ hstep).trans hP) hrun hw rfl

end Machine
end Sys2Proof
end

section
/-! SUPPORT. Runs under listed inputs: a run is the step function of rule R60 folded over the inputs, a steady pin lets
the timer count, fire or stand still (rules R66, R70, R96 and R117), and the edges that a mark makes (rules R77 to
R86). -/
namespace Sys2Proof.Machine

variable {c : Config} {r : Regs c}

/-! ### A run is a fold of the step function -/

/-- The registers after steps with the inputs `is` (rule R60). -/
def Regs.pinSteps (r : Regs c) (is : List Input) : Regs c :=
  is.foldl Regs.pinStep r

@[simp] theorem Regs.pinSteps_nil : r.pinSteps [] = r := rfl

@[simp] theorem Regs.pinSteps_cons (i : Input) (is : List Input) :
    r.pinSteps (i :: is) = (r.pinStep i).pinSteps is := rfl

theorem Regs.pinSteps_append (is js : List Input) : r.pinSteps (is ++ js) = (r.pinSteps is).pinSteps js :=
  List.foldl_append

theorem Regs.pinSteps_replicate_succ (n : Nat) (i : Input) :
    r.pinSteps (List.replicate (n + 1) i) = (r.pinSteps (List.replicate n i)).pinStep i := by
  rw [List.replicate_succ', pinSteps_append, pinSteps_cons, pinSteps_nil]

/-- A run over listed inputs folds the step function over them and changes nothing but the registers. -/
theorem runFor_stim {s : State} {is rest : List Input} (hc : s.cfg.wf = true) (h : s.stim = is ++ rest) :
    runFor is.length s =
      .next { s with regs := s.regs.pinSteps is, stim := rest, clock := s.clock + is.length } := by
  induction is generalizing s with
  | nil =>
    obtain rfl : s.stim = rest := h
    rfl
  | cons i is ih =>
    have hstep := stepIsTheStepFunction s hc
    rw [State.input_of_cons h] at hstep
    have hrest := ih (s := s.commit (s.regs.pinStep i)) hc (by simp [h])
    rw [List.length_cons, runFor_succ hstep, hrest]
    simp [State.commit, Nat.add_assoc, Nat.add_comm 1]

/-! ### A steady pin -/

/-- The timer holds every count up to the window (rule R6). -/
theorem toNat_ofNat_wTmr (hc : c.wf = true) {k : Nat} (hk : k ≤ c.wdtTicks) :
    (BitVec.ofNat c.wTmr k).toNat = k := by
  obtain ⟨-, -, -, hfits, -⟩ := (Config.wf_iff c).1 hc
  rw [BitVec.toNat_ofNat, Nat.mod_eq_of_lt (hk.trans_lt hfits)]

theorem Regs.duration_eq_ofNat (hrun : r.run = true) : r.duration = BitVec.ofNat c.wTmr (r.tmr.toNat + 1) := by
  rw [duration_running hrun, BitVec.ofNat_add, BitVec.ofNat_toNat, BitVec.setWidth_eq]
  rfl

/-- The duration operand after a level of `n` samples (rule R70). -/
theorem Regs.duration_toNat_of_level (hc : c.wf = true) (hrun : r.run = true) {n : Nat} (hpos : 1 ≤ n)
    (hn : n ≤ c.wdtTicks) (htmr : r.tmr = BitVec.ofNat c.wTmr (n - 1)) : r.duration.toNat = n := by
  have hcount : r.tmr.toNat = n - 1 := by rw [htmr, toNat_ofNat_wTmr hc (by omega)]
  rw [duration_toNat_running hc hrun (by omega), hcount, Nat.sub_add_cancel hpos]

/-- With the timer stopped a steady step changes nothing (rule R66). -/
theorem Regs.pinStep_stopped (hrun : r.run = false) : r.pinStep ⟨false, r.pinQ⟩ = r := by
  rw [pinStep_of_idle rfl rfl (by simp [hrun]), sample, duration_stopped hrun]

theorem Regs.pinSteps_stopped (n : Nat) (hrun : r.run = false) : r.pinSteps (List.replicate n ⟨false, r.pinQ⟩) = r := by
  induction n with
  | zero => rfl
  | succ n ih => rw [pinSteps_replicate_succ, ih, pinStep_stopped hrun]

/-- Before the window a steady step only counts (rule R96). -/
theorem Regs.pinStep_running (hc : c.wf = true) (hrun : r.run = true) (h : r.tmr.toNat + 1 < c.wdtTicks) :
    r.pinStep ⟨false, r.pinQ⟩ = { r with tmr := BitVec.ofNat c.wTmr (r.tmr.toNat + 1) } := by
  have hd := duration_toNat_running hc hrun (by omega)
  have hm : ¬ (r.run = true ∧ r.duration.toNat = c.wdtTicks) := by omega
  rw [pinStep_of_idle rfl rfl hm, sample, duration_eq_ofNat hrun]

theorem Regs.pinSteps_running (n : Nat) (hc : c.wf = true) (hrun : r.run = true) (h : r.tmr.toNat + n < c.wdtTicks) :
    r.pinSteps (List.replicate n ⟨false, r.pinQ⟩) = { r with tmr := BitVec.ofNat c.wTmr (r.tmr.toNat + n) } := by
  induction n with
  | zero => simp
  | succ n ih =>
    have htmr := toNat_ofNat_wTmr hc (k := r.tmr.toNat + n) (by omega)
    rw [pinSteps_replicate_succ, ih (by omega)]
    have hstep := pinStep_running (r := { r with tmr := BitVec.ofNat c.wTmr (r.tmr.toNat + n) }) hc hrun
      (by rw [htmr]; omega)
    rw [htmr] at hstep
    exact hstep

/-- The registers that the watchdog leaves at the window (rules R95 and R96). -/
def Regs.fired (r : Regs c) : Regs c :=
  { r with rx := false, code := 0, run := false, st := .sm, tmr := BitVec.ofNat c.wTmr c.wdtTicks }

/-- In the step in which the count reaches the window the watchdog fires. -/
theorem Regs.pinStep_fires (hc : c.wf = true) (hrun : r.run = true) (h : r.tmr.toNat + 1 = c.wdtTicks) :
    r.pinStep ⟨false, r.pinQ⟩ = r.fired := by
  have hd := duration_toNat_running hc hrun (by omega)
  rw [pinStep_of_match rfl rfl ⟨hrun, hd.trans h⟩, fired, ← h, ← duration_eq_ofNat hrun]
  rfl

theorem Regs.pinSteps_window (hc : c.wf = true) (hrun : r.run = true) (h : r.tmr.toNat < c.wdtTicks) :
    r.pinSteps (List.replicate (c.wdtTicks - r.tmr.toNat) ⟨false, r.pinQ⟩) = r.fired := by
  obtain ⟨n, hn⟩ : ∃ n, c.wdtTicks - r.tmr.toNat = n + 1 := Nat.exists_eq_add_one.2 (by omega)
  have htmr := toNat_ofNat_wTmr hc (k := r.tmr.toNat + n) (by omega)
  rw [hn, pinSteps_replicate_succ, pinSteps_running n hc hrun (by omega)]
  exact pinStep_fires (r := { r with tmr := BitVec.ofNat c.wTmr (r.tmr.toNat + n) }) hc hrun (by rw [htmr]; omega)

/-- Once fired, the block stands still for the rest of a longer silence (rule R117). -/
theorem Regs.pinSteps_silence (hc : c.wf = true) (hrun : r.run = true) (h : r.tmr.toNat < c.wdtTicks) :
    r.pinSteps (List.replicate c.wdtTicks ⟨false, r.pinQ⟩) = r.fired := by
  rw [← Nat.sub_add_cancel h.le, List.replicate_add, pinSteps_append, pinSteps_window hc hrun h]
  exact pinSteps_stopped (r := r.fired) _ rfl

/-! ### The statements about a steady pin -/

/-- Settles O42: a steady step with the timer stopped changes no register. -/
theorem stoppedBlockStaysAsItIs : Obligations.StoppedBlockStaysAsItIs := by
  intro n s rest hc hrun hstim
  have h := runFor_stim hc hstim
  rwa [Regs.pinSteps_stopped n hrun, List.length_replicate] at h

/-- Settles O17: RESET samples the pin, so the step after it has no edge, and a count of 1 is below the window. -/
theorem noEdgeAtReleaseOfReset : Obligations.NoEdgeAtReleaseOfReset := by
  intro s p rest hc hstim
  obtain ⟨hshort, hthr, hwindow, -⟩ := (Config.wf_iff s.cfg).1 hc
  have hzero : (resetRegs s.cfg p).tmr.toNat = 0 := BitVec.toNat_zero
  have hidle := Regs.pinStep_running (r := resetRegs s.cfg p) hc rfl (by omega)
  rw [hzero] at hidle
  have hregs : s.regs.pinSteps [⟨true, p⟩, ⟨false, p⟩] = { resetRegs s.cfg p with tmr := 1 } := by
    calc s.regs.pinSteps [⟨true, p⟩, ⟨false, p⟩]
        = (resetRegs s.cfg p).pinStep ⟨false, p⟩ :=
          congrArg (Regs.pinStep · ⟨false, p⟩) (Regs.pinStep_of_rst (i := ⟨true, p⟩) rfl)
      _ = _ := hidle
  have h := runFor_stim (is := [⟨true, p⟩, ⟨false, p⟩]) hc hstim
  rw [hregs] at h
  exact h

/-- Settles O43: `n - 1` steady steps count to `n - 1`, and the operand is one more. -/
theorem durationEqualsRunLength : Obligations.DurationEqualsRunLength := by
  intro n s rest hc hrun htmr hpos hle hstim
  have h := runFor_stim hc hstim
  rw [Regs.pinSteps_running (n - 1) hc hrun (by omega), List.length_replicate, htmr, Nat.zero_add] at h
  refine ⟨_, h, rfl, State.fetch_isEdgeOp_iff.2 ?_, ?_⟩
  · simp [State.input]
  · exact Regs.duration_toNat_of_level (r := { s.regs with tmr := BitVec.ofNat _ (n - 1) }) hc hrun hpos hle rfl

/-- Settles O44: the first steps only count, and the one that reaches the window fires. -/
theorem watchdogFiresAtTheWindow : Obligations.WatchdogFiresAtTheWindow := by
  intro s rest hc hrun hlt hstim
  have hfits := ((Config.wf_iff s.cfg).1 hc).2.2.2.1
  refine ⟨fun k hk => ⟨by omega, ?_⟩, ?_⟩
  · have hsplit : s.stim = List.replicate k ⟨false, s.regs.pinQ⟩
        ++ (List.replicate (s.cfg.wdtTicks - s.regs.tmr.toNat - k) ⟨false, s.regs.pinQ⟩ ++ rest) := by
      rw [hstim, ← List.append_assoc, ← List.replicate_add, Nat.add_sub_cancel' hk.le]
    have h := runFor_stim hc hsplit
    rwa [Regs.pinSteps_running k hc hrun (by omega), List.length_replicate] at h
  · have h := runFor_stim hc hstim
    rwa [Regs.pinSteps_window hc hrun hlt, List.length_replicate] at h

/-- Settles O45: the run is a window of silence from registers that satisfy the invariant. -/
theorem silenceReturnsToTheStart : Obligations.SilenceReturnsToTheStart := by
  rintro s rest ⟨hc, hinv⟩ hstim
  have h := runFor_stim hc hstim
  rw [List.length_replicate] at h
  cases hrun : s.regs.run with
  | false =>
    rw [Regs.pinSteps_stopped _ hrun] at h
    refine ⟨_, h, hinv.stopped_awaits_start hrun, hrun, rfl, rfl, fun hrel => ?_⟩
    obtain ⟨hcode, hrx⟩ := hrel hrun
    simp [Regs.getCode, Regs.ledRxN, hcode, hrx]
  | true =>
    rw [Regs.pinSteps_silence hc hrun (hinv.running_below_window hrun)] at h
    exact ⟨_, h, rfl, rfl, rfl, rfl, fun _ => ⟨by simp [Regs.getCode, Regs.fired], rfl⟩⟩

/-! ### The edges of a mark (rules R77 to R86) -/

theorem Regs.pinStep_smMarkBegin (hst : r.st = .sm) (hq : r.pinQ = true) :
    r.pinStep ⟨false, false⟩ = { r with run := true, tmr := 0, st := .ss, pinQ := false } := by
  rw [pinStep_of_edge rfl (by simp [hq]), edgeOp, sample_st, hst]
  rfl

theorem Regs.pinStep_ssAccept (hst : r.st = .ss) (hq : r.pinQ = false) (hd : r.duration.toNat > c.thrLong) :
    r.pinStep ⟨false, true⟩ = { r with rx := true, acc := 0, cnt := 0, tmr := 0, st := .bm, pinQ := true } := by
  rw [pinStep_of_edge rfl (by simp [hq]), edgeOp, sample_st, hst]
  simp only [hd, Bool.not_true, Bool.false_eq_true, if_false, if_true]
  rfl

theorem Regs.pinStep_ssResync (hst : r.st = .ss) (hq : r.pinQ = false) (hd : r.duration.toNat ≤ c.thrLong) :
    r.pinStep ⟨false, true⟩ = { r with tmr := 0, st := .sm, pinQ := true } := by
  rw [pinStep_of_edge rfl (by simp [hq]), edgeOp, sample_st, hst]
  simp only [hd.not_gt, Bool.not_true, Bool.false_eq_true, if_false, ssResync, fsmError_resync]
  rfl

theorem Regs.pinStep_bmMarkBegin (hst : r.st = .bm) (hq : r.pinQ = true) :
    r.pinStep ⟨false, false⟩ = { r with tmr := 0, st := .bs, pinQ := false } := by
  rw [pinStep_of_edge rfl (by simp [hq]), edgeOp, sample_st, hst]
  rfl

/-- A shift depends neither on the state nor on the count it replaces. -/
theorem Regs.shiftIn_congr_st_tmr (x : DecoderState) (t : BitVec c.wTmr) (b : Bool) :
    ({ r with st := x, tmr := t } : Regs c).shiftIn b = r.shiftIn b := by
  simp only [shiftIn_eq]

theorem Regs.pinStep_shiftIn (hst : r.st = .bs) (hq : r.pinQ = false) (hd : r.duration.toNat < c.thrLong) :
    r.pinStep ⟨false, true⟩ = ({ r with pinQ := true } : Regs c).shiftIn (decide (c.thrShort < r.duration.toNat)) := by
  rw [pinStep_of_edge rfl (by simp [hq]), edgeOp, sample_st, hst]
  simp only [hd.not_ge, Bool.not_true, Bool.false_eq_true, if_false]
  have hcongr : ∀ b, (r.sample true).shiftIn b = ({ r with st := .bs, pinQ := true } : Regs c).shiftIn b :=
    shiftIn_congr_st_tmr (r := { r with st := .bs, pinQ := true }) r.st r.duration
  by_cases hS : c.thrShort < r.duration.toNat
  · simp only [hS, if_true, decide_true, bsBit1, hcongr]
  · simp only [hS, if_false, decide_false, bsBit0, hcongr]

/-- The count of a level: its edge resets it, and each further sample adds one (rule R70). -/
theorem Regs.pinSteps_level (hc : c.wf = true) (p : Bool) {q : Regs c} (hq : r.pinStep ⟨false, p⟩ = q)
    (hpin : q.pinQ = p) (hrun : q.run = true) (htmr : q.tmr = 0) {n : Nat} (hpos : 1 ≤ n) (hn : n ≤ c.wdtTicks) :
    r.pinSteps (List.replicate n ⟨false, p⟩) = { q with tmr := BitVec.ofNat c.wTmr (n - 1) } := by
  subst hpin
  have hzero : q.tmr.toNat = 0 := by rw [htmr]; exact BitVec.toNat_zero
  have hsteady := pinSteps_running (r := q) (n - 1) hc hrun (by omega)
  rw [hzero, Nat.zero_add] at hsteady
  rw [← Nat.sub_add_cancel hpos, List.replicate_succ, pinSteps_cons, hq, Nat.add_sub_cancel, hsteady]

/-- A mark of `n` samples in AWAIT_BIT_MARK shifts in a bit, 1 exactly when it is longer than `THR_SHORT` (rules R82 to
R85). -/
theorem Regs.pinSteps_bitMark (hc : c.wf = true) (hst : r.st = .bm) (hq : r.pinQ = true) (hrun : r.run = true) {n : Nat}
    (hpos : 1 ≤ n) (hn : n < c.thrLong) :
    (r.pinSteps (List.replicate n ⟨false, false⟩)).pinStep ⟨false, true⟩ =
      ({ r with tmr := 0 } : Regs c).shiftIn (decide (c.thrShort < n)) := by
  obtain ⟨-, -, hwindow, -⟩ := (Config.wf_iff c).1 hc
  have hle : n ≤ c.wdtTicks := by omega
  rw [pinSteps_level hc false (pinStep_bmMarkBegin hst hq) rfl hrun rfl hpos hle]
  have hd := duration_toNat_of_level
    (r := { r with tmr := BitVec.ofNat _ (n - 1), st := .bs, pinQ := false }) hc hrun hpos hle rfl
  rw [pinStep_shiftIn rfl rfl (hd.trans_lt hn), hd, ← hq]
  exact shiftIn_congr_st_tmr (r := { r with tmr := 0 }) _ _ _

/-- Settles O46: in AWAIT_BIT_MARK the timer runs and the pin was high, and one sample is at most `THR_SHORT`. -/
theorem oneStepGlitchIsAZeroBit : Obligations.OneStepGlitchIsAZeroBit := by
  rintro s rest ⟨hc, hinv⟩ hst hstim
  obtain ⟨hshort, hthr, -⟩ := (Config.wf_iff s.cfg).1 hc
  have hbit := Regs.pinSteps_bitMark hc hst (hinv.bitMark_pin hst) (hinv.run_of_ne_sm (hst ▸ nofun)) le_rfl (by omega)
  rw [decide_eq_false (by omega)] at hbit
  have h := runFor_stim (is := [⟨false, false⟩, ⟨false, true⟩]) hc hstim
  rw [show s.regs.pinSteps [⟨false, false⟩, ⟨false, true⟩] = _ from hbit] at h
  exact h

theorem stimInputs_low (n : Nat) : stimInputs [.low n] = List.replicate n ⟨false, false⟩ :=
  List.append_nil _

/-- Settles O47: the operand at the deasserted edge is `d`, which does not exceed `THR_LONG`. -/
theorem shortStartMarkLeavesNoTrace : Obligations.ShortStartMarkLeavesNoTrace := by
  intro d s rest hc hst hq hpos hd hstim
  obtain ⟨-, -, hwindow, -⟩ := (Config.wf_iff s.cfg).1 hc
  have hle : d ≤ s.cfg.wdtTicks := by omega
  have hmark := Regs.pinSteps_level hc false (Regs.pinStep_smMarkBegin hst hq) rfl rfl rfl hpos hle
  have hregs : s.regs.pinSteps (stimInputs [.low d] ++ [⟨false, true⟩]) = { s.regs with tmr := 0, run := true } := by
    rw [Regs.pinSteps_append, stimInputs_low, hmark, Regs.pinSteps_cons, Regs.pinSteps_nil,
      Regs.pinStep_ssResync rfl rfl
        ((Regs.duration_toNat_of_level hc (by exact rfl) hpos hle (by exact rfl)).trans_le hd)]
    simp only [hst, hq]
  have h := runFor_stim (is := stimInputs [.low d] ++ [⟨false, true⟩]) (rest := rest) hc (by simp [hstim])
  rw [hregs] at h
  simpa [stimInputs_low] using h

end Sys2Proof.Machine
end

section
/-! SUPPORT. Frames (spec/41_fsm_edge_ops.md section 8, spec/20_memory.md section 2): the value of a frame's bits (rule
R32), how long a nominal frame lasts (rules R55 and R133), and what a timed frame leaves in the registers (rule R92). -/
namespace Sys2Proof.Machine

variable {c : Config} {r : Regs c}

/-! ### The value of a frame's bits (rule R32) -/

/-- A bit that arrives shifts the value and becomes its lowest bit. -/
theorem msbFirst_concat (bits : List Bool) (b : Bool) : msbFirst (bits ++ [b]) = Nat.bit b (msbFirst bits) := by
  rw [msbFirst, List.foldl_append, Nat.bit_val]
  rfl

theorem msbFirst_lt (bits : List Bool) : msbFirst bits < 2 ^ bits.length := by
  induction bits using List.reverseRecOn with
  | nil => exact one_pos
  | append_singleton bits b ih =>
    have hb := b.toNat_le
    rw [msbFirst_concat, Nat.bit_val, List.length_append, List.length_singleton, Nat.pow_succ]
    omega

theorem testBit_msbFirst (bits : List Bool) (k : Nat) (h : k < bits.length) :
    (msbFirst bits).testBit (bits.length - 1 - k) = bits[k] := by
  induction bits using List.reverseRecOn with
  | nil => exact absurd h k.not_lt_zero
  | append_singleton bits b ih =>
    have hlen : (bits ++ [b]).length - 1 - k = bits.length - k := by simp
    rw [hlen, msbFirst_concat]
    by_cases hk : k < bits.length
    · have hsucc : bits.length - k = (bits.length - 1 - k) + 1 := by omega
      rw [hsucc, Nat.testBit_bit_succ, ih hk, List.getElem_append_left hk]
    · obtain rfl : k = bits.length := by
        rw [List.length_append, List.length_singleton] at h
        omega
      rw [Nat.sub_self, Nat.testBit_bit_zero, List.getElem_concat_length rfl]

/-- Settles O50: by induction on the bits in order of arrival, the last one lowest. -/
theorem firstBitIsMostSignificant : Obligations.FirstBitIsMostSignificant :=
  fun bits => ⟨msbFirst_lt bits, testBit_msbFirst bits⟩

/-! ### How long a nominal frame lasts (rules R55 and R133) -/

@[simp] theorem stimInputs_nil : stimInputs [] = [] := rfl

@[simp] theorem stimInputs_cons (i : Item) (items : List Item) :
    stimInputs (i :: items) = itemInputs i ++ stimInputs items := rfl

@[simp] theorem stimInputs_append (items items' : List Item) :
    stimInputs (items ++ items') = stimInputs items ++ stimInputs items' :=
  List.flatMap_append

theorem length_stimInputs_bitItems (c : Config) (bits : List Bool) :
    (stimInputs (bits.flatMap (bitItems c))).length =
      bits.length * c.tShort + bits.count true * c.tLong + bits.count false * c.tShort := by
  induction bits with
  | nil => simp
  | cons b bits ih =>
    cases b <;> simp [bitItems, itemInputs, ih] <;> ring

theorem length_stimInputs_frameItems (c : Config) (bits : List Bool) : (stimInputs (frameItems c bits)).length =
    c.tStart + bits.length * c.tShort + bits.count true * c.tLong + bits.count false * c.tShort := by
  rw [frameItems, stimInputs_append, List.length_append, length_stimInputs_bitItems]
  simp [startItems, itemInputs, Nat.add_assoc]

/-- Settles O51: the bounds are those of fifteen 0 bits and of fifteen 1 bits. -/
theorem nominalFrameLength : Obligations.NominalFrameLength := by
  refine ⟨length_stimInputs_frameItems, fun bits hlen => ?_⟩
  have hcount := List.count_true_add_count_false bits
  rw [length_stimInputs_frameItems]
  simp only [Config.reference]
  omega

/-! ### What a frame leaves (rules R86 and R92) -/

/-- The registers in the step of a deasserted edge, after the bits of a frame that began with registers `r`. -/
def Regs.received (r : Regs c) (bits : List Bool) : Regs c where
  st := if bits.length = c.nbits then .sm else .bm
  acc := BitVec.ofNat _ (msbFirst bits)
  cnt := BitVec.ofNat _ bits.length
  code := if bits.length = c.nbits then BitVec.ofNat _ (msbFirst bits) else r.code
  rx := true
  fault := r.fault
  tmr := 0
  run := true
  pinQ := true

theorem shiftedAcc_msbFirst (bits : List Bool) (b : Bool) :
    shiftedAcc (BitVec.ofNat c.wAcc (msbFirst bits)) b = BitVec.ofNat c.wAcc (msbFirst (bits ++ [b])) := by
  apply BitVec.eq_of_toNat_eq
  rw [shiftedAcc_toNat, BitVec.toNat_ofNat, BitVec.toNat_ofNat, msbFirst_concat, Nat.bit_val]
  simp [Nat.add_mod, Nat.mul_mod]

theorem countedBit_ofNat (n : Nat) : countedBit (BitVec.ofNat c.wCnt n) = BitVec.ofNat c.wCnt (n + 1) := by
  rw [BitVec.ofNat_add]
  rfl

theorem Regs.received_shiftIn (hc : c.wf = true) {bits : List Bool} (h : bits.length < c.nbits) (b : Bool) :
    (r.received bits).shiftIn b = r.received (bits ++ [b]) := by
  obtain ⟨-, -, -, -, -, hfits, -⟩ := (Config.wf_iff c).1 hc
  have hcnt : (BitVec.ofNat c.wCnt (bits.length + 1)).toNat = bits.length + 1 := by
    rw [BitVec.toNat_ofNat, Nat.mod_eq_of_lt]
    omega
  rw [shiftIn_eq]
  simp only [received, shiftedAcc_msbFirst, countedBit_ofNat, hcnt, List.length_append, List.length_singleton, h.ne,
    if_false]
  split_ifs <;> rfl

/-- The start mark's end begins an empty frame (rule R79). -/
theorem Regs.pinSteps_startMark (hc : c.wf = true) (hst : r.st = .sm) (hq : r.pinQ = true) {n : Nat}
    (hlong : c.thrLong < n) (hn : n ≤ c.wdtTicks) :
    (r.pinSteps (List.replicate n ⟨false, false⟩)).pinStep ⟨false, true⟩ = r.received [] := by
  obtain ⟨-, -, -, -, hnbits, -⟩ := (Config.wf_iff c).1 hc
  have hpos : 1 ≤ n := by omega
  have hd := duration_toNat_of_level
    (r := { r with run := true, tmr := BitVec.ofNat _ (n - 1), st := .ss, pinQ := false }) hc rfl hpos hn rfl
  rw [pinSteps_level hc false (pinStep_smMarkBegin hst hq) rfl rfl rfl hpos hn,
    pinStep_ssAccept rfl rfl (hlong.trans_eq hd.symm)]
  have hempty : ([] : List Bool).length ≠ c.nbits := by simp; omega
  simp only [received, hempty, if_false]
  rfl

/-- One bit of a frame: after the deasserted edge a space, then a mark and the deasserted edge that ends it. -/
theorem Regs.pinSteps_bit (hc : c.wf = true) {q : Regs c} {bits : List Bool}
    (hq : q.pinStep ⟨false, true⟩ = r.received bits) (hmore : bits.length < c.nbits) {space mark : Nat}
    (hspace : 1 ≤ space ∧ space ≤ c.wdtTicks) (hmark : 1 ≤ mark ∧ mark < c.thrLong) :
    (q.pinSteps (List.replicate space ⟨false, true⟩ ++ List.replicate mark ⟨false, false⟩)).pinStep ⟨false, true⟩ =
      r.received (bits ++ [decide (c.thrShort < mark)]) := by
  rw [pinSteps_append, pinSteps_level hc true hq rfl rfl rfl hspace.1 hspace.2,
    pinSteps_bitMark hc (if_neg hmore.ne) rfl rfl hmark.1 hmark.2]
  exact received_shiftIn hc hmore _

theorem Regs.pinSteps_bits (hc : c.wf = true) (marks : List (Nat × Nat)) {q : Regs c} {bits : List Bool}
    (hq : q.pinStep ⟨false, true⟩ = r.received bits) (hlen : bits.length + marks.length ≤ c.nbits)
    (hmarks : ∀ b ∈ marks, 1 ≤ b.1 ∧ b.1 ≤ c.wdtTicks ∧ 1 ≤ b.2 ∧ b.2 < c.thrLong) :
    (q.pinSteps (stimInputs (marks.flatMap fun b => [.high b.1, .low b.2]))).pinStep ⟨false, true⟩ =
      r.received (bits ++ marks.map fun b => decide (c.thrShort < b.2)) := by
  induction marks generalizing q bits with
  | nil => simpa using hq
  | cons b marks ih =>
    rw [List.length_cons] at hlen
    obtain ⟨hb, hrest⟩ := List.forall_mem_cons.1 hmarks
    obtain ⟨hspace, hspace', hmark⟩ := hb
    have hbit := pinSteps_bit hc hq (by omega) ⟨hspace, hspace'⟩ hmark
    have h := ih hbit (by simp; omega) hrest
    rw [← pinSteps_append] at h
    simpa [itemInputs] using h

/-- A timed frame is received bit by bit (rule R92). -/
theorem Regs.pinSteps_timedFrame (hc : c.wf = true) (hst : r.st = .sm) (hq : r.pinQ = true) {startMark : Nat}
    {marks : List (Nat × Nat)} (hlong : c.thrLong < startMark) (hstart : startMark ≤ c.wdtTicks)
    (hlen : marks.length = c.nbits)
    (hmarks : ∀ b ∈ marks, 1 ≤ b.1 ∧ b.1 ≤ c.wdtTicks ∧ 1 ≤ b.2 ∧ b.2 < c.thrLong) :
    r.pinSteps (stimInputs (timedFrame startMark marks) ++ [⟨false, true⟩]) =
      r.received (marks.map fun b => decide (c.thrShort < b.2)) := by
  have h := pinSteps_bits hc marks (pinSteps_startMark hc hst hq hlong hstart) (by simp [hlen]) hmarks
  rw [timedFrame, stimInputs_cons, pinSteps_append, pinSteps_append]
  exact h

/-- Settles O48: the registers are those after a timed frame, which has all its bits. -/
theorem timedFrameIsDecoded : Obligations.TimedFrameIsDecoded := by
  intro startMark bits s rest hc hst hq hlong hstart hlen hbits hstim
  have h := runFor_stim (is := stimInputs (timedFrame startMark bits) ++ [⟨false, true⟩]) (rest := rest) hc
    (by simp [hstim])
  rw [Regs.pinSteps_timedFrame hc hst hq hlong hstart hlen hbits] at h
  simpa [Regs.received, hlen] using h

/-- The space and the mark of a nominal bit (rule R55). -/
def nominalBit (c : Config) (b : Bool) : Nat × Nat :=
  (c.tShort, if b then c.tLong else c.tShort)

theorem frameItems_eq_timedFrame (c : Config) (bits : List Bool) :
    frameItems c bits = timedFrame c.tStart (bits.map (nominalBit c)) := by
  rw [timedFrame, List.flatMap_map]
  rfl

/-- The nominal intervals are within the bounds of a timed frame at the reference parameters. -/
theorem reference_nominalBit_bounds (b : Bool) :
    let interval := nominalBit Config.reference b
    1 ≤ interval.1 ∧ interval.1 ≤ Config.reference.wdtTicks ∧ 1 ≤ interval.2
      ∧ interval.2 < Config.reference.thrLong := by
  revert b
  decide

/-- At the reference parameters the two nominal marks lie on the two sides of `THR_SHORT`. -/
theorem reference_nominalBit_value (b : Bool) :
    decide (Config.reference.thrShort < (nominalBit Config.reference b).2) = b := by
  revert b
  decide

theorem reference_wf : Config.reference.wf = true := by
  decide

theorem pinSteps_nominalFrame (r : Regs Config.reference) {bits : List Bool} (hlen : bits.length = 15) :
    r.pinSteps (stimInputs (.rst :: frameItems Config.reference bits ++ [.high 1])) =
      (resetRegs Config.reference true).received bits := by
  have hinputs : stimInputs (.rst :: frameItems Config.reference bits ++ [.high 1]) =
      ⟨true, true⟩ :: (stimInputs (timedFrame Config.reference.tStart (bits.map (nominalBit Config.reference)))
        ++ [⟨false, true⟩]) := by
    rw [← frameItems_eq_timedFrame]
    simp [itemInputs]
  have hmarks : ∀ b ∈ bits.map (nominalBit Config.reference), 1 ≤ b.1 ∧ b.1 ≤ Config.reference.wdtTicks ∧ 1 ≤ b.2
      ∧ b.2 < Config.reference.thrLong := by
    intro i hi
    obtain ⟨b, -, rfl⟩ := List.mem_map.1 hi
    exact reference_nominalBit_bounds b
  have hvalues : (bits.map (nominalBit Config.reference)).map (fun b => decide (Config.reference.thrShort < b.2)) =
      bits := by
    rw [List.map_map]
    exact List.map_id'' reference_nominalBit_value bits
  rw [hinputs, Regs.pinSteps_cons, Regs.pinStep_of_rst rfl,
    Regs.pinSteps_timedFrame reference_wf rfl rfl (by decide) (by decide) (by rw [List.length_map, hlen]; rfl) hmarks,
    hvalues]

/-- Settles O49: RESET leaves the pin high in AWAIT_START_MARK, and a nominal frame is a timed frame. -/
theorem nominalFrameAfterResetIsRead : Obligations.NominalFrameAfterResetIsRead := by
  rintro bits ⟨_, regs, stim, clock⟩ rest rfl hlen hstim
  have h := runFor_stim reference_wf hstim
  rw [pinSteps_nominalFrame regs hlen] at h
  have hall : bits.length = Config.reference.nbits := hlen
  refine ⟨_, h, ?_, if_pos hall, ?_, BitVec.toNat_zero, rfl, rfl⟩
  · simp [Regs.ports, Regs.getCode, Regs.ledRxN, Regs.ledFaultN, Regs.received, hall, resetRegs]
    rfl
  · simp only [Regs.received, hlen]
    rfl

end Sys2Proof.Machine
end

section
/-! SUPPORT. What the outside cannot tell apart (spec/93_implementation_defined.md U7 and U8): register files that
differ in the scratch registers alone go on to differ in nothing else, step by step. -/
namespace Sys2Proof.Machine

variable {c : Config} {r q : Regs c}

namespace Regs.SameOutside

theorem ports (h : r.SameOutside q) : r.ports = q.ports := by
  simp [Regs.ports, getCode, ledRxN, ledFaultN, h.code, h.rx, h.fault]

/-- The count is shared as long as the timer runs, and so is the duration operand (rule R64). -/
theorem duration (h : r.SameOutside q) (hrun : r.run = true) : r.duration = q.duration := by
  rw [duration_running hrun, duration_running (h.run ▸ hrun), h.tmr hrun]

theorem sample (h : r.SameOutside q) (p : Bool) : (r.sample p).SameOutside (q.sample p) :=
  { h with pinQ := rfl, tmr := h.duration }

theorem wdtFire (h : r.SameOutside q) : r.wdtFire.SameOutside q.wdtFire :=
  { h with st := rfl, code := rfl, rx := rfl, run := rfl, acc := nofun, cnt := nofun, tmr := nofun }

theorem smMarkBegin (h : r.SameOutside q) : r.smMarkBegin.SameOutside q.smMarkBegin :=
  { h with st := rfl, run := rfl, acc := nofun, cnt := nofun, tmr := fun _ => rfl }

theorem smIgnore (h : r.SameOutside q) : r.smIgnore.SameOutside q.smIgnore :=
  { h with st := rfl, acc := nofun, cnt := nofun, tmr := fun _ => rfl }

/-- The scratch registers become visible in AWAIT_BIT_MARK, and SS_ACCEPT clears them on the way (rule R79). -/
theorem ssAccept (h : r.SameOutside q) : r.ssAccept.SameOutside q.ssAccept :=
  { h with st := rfl, rx := rfl, acc := fun _ => rfl, cnt := fun _ => rfl, tmr := fun _ => rfl }

theorem fsmError (h : r.SameOutside q) (k : ErrorKind) : (r.fsmError k).SameOutside (q.fsmError k) :=
  { h with
    st := rfl
    fault := congrArg (· || setsFault k) h.fault
    acc := nofun
    cnt := nofun
    tmr := fun _ => rfl }

theorem bmMarkBegin (h : r.SameOutside q) (hst : r.st = .bm) : r.bmMarkBegin.SameOutside q.bmMarkBegin :=
  { h with
    st := rfl
    acc := fun _ => h.acc (.inl hst)
    cnt := fun _ => h.cnt (.inl hst)
    tmr := fun _ => rfl }

/-- A shift reads the scratch registers, in AWAIT_BIT_SPACE, where they are shared (rule R86). -/
theorem shiftIn (h : r.SameOutside q) (hst : r.st = .bs) (b : Bool) : (r.shiftIn b).SameOutside (q.shiftIn b) := by
  have hacc := h.acc (.inr hst)
  have hcnt := h.cnt (.inr hst)
  rw [shiftIn_eq, shiftIn_eq, ← hacc, ← hcnt]
  split_ifs
  · exact { h with st := rfl, code := rfl, acc := fun _ => rfl, cnt := fun _ => rfl, tmr := fun _ => rfl }
  · exact { h with st := rfl, acc := fun _ => rfl, cnt := fun _ => rfl, tmr := fun _ => rfl }

/-- In AWAIT_START_MARK, the only state with a stopped timer, no edge operation reads the duration (rule R75). -/
theorem edgeOp (h : r.SameOutside q) (lvl : Bool) {d e : BitVec c.wTmr} (hd : r.st ≠ .sm → d = e) :
    (r.edgeOp lvl d).SameOutside (q.edgeOp lvl e) := by
  unfold Regs.edgeOp
  rw [← h.st]
  cases hst : r.st with
  | sm =>
    dsimp only
    split_ifs
    · exact h.smMarkBegin
    · exact h.smIgnore
  | ss =>
    obtain rfl := hd (hst ▸ nofun)
    dsimp only
    split_ifs
    · exact h.fsmError _
    · exact h.ssAccept
    · exact h.fsmError _
  | bm =>
    dsimp only
    split_ifs
    · exact h.bmMarkBegin hst
    · exact h.fsmError _
  | bs =>
    obtain rfl := hd (hst ▸ nofun)
    dsimp only
    split_ifs
    · exact h.fsmError _
    · exact h.fsmError _
    · exact h.shiftIn hst _
    · exact h.shiftIn hst _

/-- The step function keeps the relation: it reads the count of a running timer only, and compares it in states in which
the timer runs. -/
theorem pinStep (hinv : r.Inv) (h : r.SameOutside q) (i : Input) : (r.pinStep i).SameOutside (q.pinStep i) := by
  cases hrst : i.rst with
  | true =>
    rw [pinStep_of_rst hrst, pinStep_of_rst hrst]
    constructor <;> intros <;> rfl
  | false =>
    by_cases hpin : i.pin = r.pinQ
    · have hpin' : i.pin = q.pinQ := hpin.trans h.pinQ
      have hmatch :
          (r.run = true ∧ r.duration.toNat = c.wdtTicks) ↔ (q.run = true ∧ q.duration.toNat = c.wdtTicks) := by
        rw [← h.run]
        exact and_congr_right fun hr => by rw [h.duration hr]
      by_cases hm : r.run = true ∧ r.duration.toNat = c.wdtTicks
      · rw [pinStep_of_match hrst hpin hm, pinStep_of_match hrst hpin' (hmatch.1 hm)]
        exact (h.sample _).wdtFire
      · rw [pinStep_of_idle hrst hpin hm, pinStep_of_idle hrst hpin' (mt hmatch.2 hm)]
        exact h.sample _
    · rw [pinStep_of_edge hrst hpin, pinStep_of_edge hrst (h.pinQ ▸ hpin)]
      exact (h.sample _).edgeOp _ fun hst => h.duration (hinv.run_of_ne_sm hst)

end Regs.SameOutside

/-- Settles O41: by induction on the steps: each keeps the invariant and the relation, and that fixes the ports. -/
theorem scratchStateIsNeverVisible : Obligations.ScratchStateIsNeverVisible := by
  intro n
  induction n with
  | zero => exact fun s q _ _ h => ⟨s, q, rfl, rfl, h.ports, h⟩
  | succ n ih =>
    rintro s q ⟨hc, hs⟩ hq h
    rw [runFor_succ (stepIsTheStepFunction s hc), runFor_succ (stepIsTheStepFunction { s with regs := q } hc)]
    exact ih (s.commit (s.regs.pinStep s.input)) (q.pinStep s.input) ⟨hc, hs.pinStep hc _⟩ (hq.pinStep hc _)
      (h.pinStep hs _)

end Sys2Proof.Machine
end
